-- ==== Sys2Proof/Word.lean ====
section
/-! DEFINITION. The two widths of the engine (spec 00_scope.md R6, 10_state.md R20 and R21): 8-bit bytes and 16-bit words. -/

namespace Sys2Proof

/-- A `u8`: a sub-register, a Memory cell, a port number, a data byte (R6, R21, R57). -/
abbrev Byte := BitVec 8

/-- A `u16`: a register pair, an address, the program counter (R6, R20, R50). -/
abbrev Word := BitVec 16

end Sys2Proof
end

