-- ==== Sys2Proof/Config.lean ====
section
/-! DEFINITION. What an implementation fixes: the open parameters of the spec (00_scope.md R6, 92_eei_decisions.md section 1) as types,
and the values the spec leaves open as constants without a body.

The three named parameters (`IMPL2`, `SUB_HALF_POLICY`, `IRQ_ENTRY_CLEARS_IFF`) are ARGUMENTS of the model: they are held as plain data in
the field `params` of State, no step changes them, and a claim about every state is a claim about every value of them (log 1, 2, 3).
The draws `undef1()` and the answers of a device are FREE VALUES: opaque constants, about which nothing can be proved (log 4, 5, 6). -/

namespace Sys2Proof

/-- The 50 rows of tier 2 that `IMPL2` ranges over (30_encoding.md R106, 47_tier2_base.md R310).
One name covers both prefixes of a DD/FD row. -/
inductive Tier2Row where
  -- base table, R311 to R329
  | nop | ldBCA | ldABC | ldDEA | ldADE | ldMemHL | ldHLMem | ldMemA | ldAMem
  | rlca | rrca | rla | rra | djnz | daa | cpl | scf | ccf | jpHL
  -- ED table, R340 to R358
  | neg | rrd | rld
  | ldi | ldd | ldir | lddr | cpi | cpd | cpir | cpdr
  | ini | ind | inir | indr | outi | outd | otir | otdr
  -- DD/FD table, R360 to R371
  | ldMemXY | ldXYMem | incXYd | decXYd | ldXYdN | adcAXYd | sbcAXYd
  | popXY | exSPXY | pushXY | jpXY | ldSPXY
deriving DecidableEq, Repr

/-- The tier-2 rows of the base table (47_tier2_base.md). -/
def Tier2Row.base : List Tier2Row :=
  [.nop, .ldBCA, .ldABC, .ldDEA, .ldADE, .ldMemHL, .ldHLMem, .ldMemA, .ldAMem,
   .rlca, .rrca, .rla, .rra, .djnz, .daa, .cpl, .scf, .ccf, .jpHL]

/-- The tier-2 rows of the ED table (48_tier2_ed_ddfd.md, R340 to R358). -/
def Tier2Row.extended : List Tier2Row :=
  [.neg, .rrd, .rld, .ldi, .ldd, .ldir, .lddr, .cpi, .cpd, .cpir, .cpdr,
   .ini, .ind, .inir, .indr, .outi, .outd, .otir, .otdr]

/-- The tier-2 rows of the DD/FD table (48_tier2_ed_ddfd.md, R360 to R371). -/
def Tier2Row.indexed : List Tier2Row :=
  [.ldMemXY, .ldXYMem, .incXYd, .decXYd, .ldXYdN, .adcAXYd, .sbcAXYd, .popXY, .exSPXY, .pushXY, .jpXY, .ldSPXY]

/-- Every tier-2 row: the setting of `IMPL2` that "a model meant to run ordinary Z80 programs" takes (R310). -/
def Tier2Row.all : List Tier2Row := Tier2Row.base ++ (Tier2Row.extended ++ Tier2Row.indexed)

/-- `SUB_HALF_POLICY` (40_alu_flags.md R122, R124; decision D4): which value H takes after a subtraction. -/
inductive HalfPolicy where
  /-- H is the half-carry of the inner addition: the complement of the borrow. -/
  | literal
  /-- H is the borrow out of bit 3 (8 bits) or bit 11 (16 bits). -/
  | borrow
deriving DecidableEq, Repr

/-- The named open parameters of R6, "configuration, fixed for a run" (10_state.md R37). -/
structure Params where
  /-- `IMPL2`: the tier-2 rows that are in their tables (R106). -/
  impl2 : List Tier2Row
  /-- `SUB_HALF_POLICY` (R122). -/
  subHalf : HalfPolicy
  /-- `IRQ_ENTRY_CLEARS_IFF` (60_exceptions.md R417). -/
  irqEntryClearsIff : Bool
deriving DecidableEq, Repr

/-- One call the engine made on a device (20_memory.md R60), `sub` being the 4-bit sub-address. -/
inductive DeviceCall where
  /-- `read(sub)` was called and answered `answer`. -/
  | read (sub : BitVec 4) (answer : Byte)
  /-- `write(sub, value)` was called. -/
  | write (sub : BitVec 4) (value : Byte)
deriving DecidableEq, Repr

/-- What a device answers to one call (R60, R414): the byte a `read` returns (a `write` returns none, and the byte is not used), and
whether the call sets the interrupt request latch. -/
structure Answer where
  byte : Byte
  raisesIrq : Bool
deriving DecidableEq, Repr, Inhabited

/-- `undef1()` (R6, R13, R27): the k-th unspecified bit. No body: nothing constrains it (log 4). -/
opaque Config.undef1 : Nat → Bool

/-- The oracle answer of the device in `slot`, which has had the calls `history` (newest first), to `read(sub)` (R60, D19).
No body: nothing constrains it (log 5). -/
opaque Config.deviceRead (slot : BitVec 4) (history : List DeviceCall) (sub : BitVec 4) : Answer

/-- Whether the device in `slot`, which has had the calls `history`, sets the request latch when it is called with
`write(sub, value)` (R60, R414, D36). No body: nothing constrains it (log 5). -/
opaque Config.deviceWriteRaises (slot : BitVec 4) (history : List DeviceCall) (sub : BitVec 4) (value : Byte) : Bool

/-- PC after `UnknownInstruction` (R88, R412, 93_implementation_defined.md U8): "any value". No body (log 6). -/
opaque Config.pcAfterFault : Nat → Word

end Sys2Proof
end

