-- ==== Sys2Proof/Syntax.lean ====
section
/-! DEFINITION. The instruction set as syntax: one constructor of `Instr` per row of spec/opcode_table.json (30_encoding.md R103),
its operands already turned from codes into names (R92 to R97). -/

namespace Sys2Proof

/-- The seven 8-bit registers an instruction can name (10_state.md R22, 30_encoding.md R92). Code 6 is not among them. -/
inductive Reg8 where
  | b | c | d | e | h | l | a
deriving DecidableEq, Repr

/-- The columns `dd` and `ss` of R93: loads, INC/DEC, ADD/ADC/SBC HL. -/
inductive Pair where
  | bc | de | hl | sp
deriving DecidableEq, Repr

/-- The column `qq` of R93: PUSH and POP. -/
inductive StackPair where
  | bc | de | hl | af
deriving DecidableEq, Repr

/-- The column `pp` of R93: the operand of ADD IX,pp; `xy` is the index register itself. -/
inductive IndexPair where
  | bc | de | xy | sp
deriving DecidableEq, Repr

/-- The index register XY: `DD` selects IX, `FD` selects IY (R97, 46_ddfd_indexed.md R280). -/
inductive Index where
  | ix | iy
deriving DecidableEq, Repr

/-- The eight conditions of JP, CALL and RET (R94, 40_alu_flags.md R140). -/
inductive Cond where
  | nz | z | nc | c | po | pe | p | m
deriving DecidableEq, Repr

/-- The four conditions of JR (R94, conflict C1). -/
inductive RelCond where
  | nz | z | nc | c
deriving DecidableEq, Repr

/-- The twelve formats of R81. -/
inductive Format where
  | b1 | b2n | b2e | b3nn | cb2 | ed2 | ed4nn | x2 | x3d | x4nn | x4dn | xcb4
deriving DecidableEq, Repr

/-- One constructor per row of spec/opcode_table.json, in the table's order; a bit number or restart code is its 3-bit field,
a displacement or relative offset its byte. -/
inductive Instr where
  -- 41_base_load_exchange_stack.md, R150 to R162
  | ldRR (dst src : Reg8)
  | ldRHL (r : Reg8)
  | ldHLR (r : Reg8)
  | ldRN (r : Reg8) (n : Byte)
  | ldHLN (n : Byte)
  | ldDdNN (p : Pair) (nn : Word)
  | ldSPHL
  | push (q : StackPair)
  | pop (q : StackPair)
  | exDEHL
  | exAFAF
  | exx
  | exSPHL
  -- 42_base_arith_logic.md, R180 to R210
  | addAR (r : Reg8)
  | addAHL
  | addAN (n : Byte)
  | adcAR (r : Reg8)
  | adcAHL
  | adcAN (n : Byte)
  | subAR (r : Reg8)
  | subAHL
  | subAN (n : Byte)
  | sbcAR (r : Reg8)
  | sbcAHL
  | sbcAN (n : Byte)
  | andAR (r : Reg8)
  | andAHL
  | andAN (n : Byte)
  | xorAR (r : Reg8)
  | xorAHL
  | xorAN (n : Byte)
  | orAR (r : Reg8)
  | orAHL
  | orAN (n : Byte)
  | cpAR (r : Reg8)
  | cpAHL
  | cpAN (n : Byte)
  | incR (r : Reg8)
  | incHL
  | decR (r : Reg8)
  | decHL
  | incSS (p : Pair)
  | decSS (p : Pair)
  | addHLSS (p : Pair)
  -- 43_base_control_io_system.md, R215 to R228
  | jpNN (nn : Word)
  | jpCcNN (cc : Cond) (nn : Word)
  | jrE (e : Byte)
  | jrCcE (cc : RelCond) (e : Byte)
  | callNN (nn : Word)
  | callCcNN (cc : Cond) (nn : Word)
  | ret
  | retCc (cc : Cond)
  | rst (t : BitVec 3)
  | inAN (n : Byte)
  | outNA (n : Byte)
  | ei
  | di
  | halt
  -- 44_cb_rotate_bit.md, R240 to R261
  | rlcR (r : Reg8)
  | rlcHL
  | rrcR (r : Reg8)
  | rrcHL
  | rlR (r : Reg8)
  | rlHL
  | rrR (r : Reg8)
  | rrHL
  | slaR (r : Reg8)
  | slaHL
  | sraR (r : Reg8)
  | sraHL
  | sllR (r : Reg8)
  | sllHL
  | srlR (r : Reg8)
  | srlHL
  | bitR (b : BitVec 3) (r : Reg8)
  | bitHL (b : BitVec 3)
  | resR (b : BitVec 3) (r : Reg8)
  | resHL (b : BitVec 3)
  | setR (b : BitVec 3) (r : Reg8)
  | setHL (b : BitVec 3)
  -- 45_ed_extended.md, R265 to R270
  | adcHLSS (p : Pair)
  | sbcHLSS (p : Pair)
  | ldMemDd (nn : Word) (p : Pair)
  | ldDdMem (p : Pair) (nn : Word)
  | inRC (r : Reg8)
  | outCR (r : Reg8)
  -- 46_ddfd_indexed.md, R282 to R304
  | addXY (x : Index) (p : IndexPair)
  | incXY (x : Index)
  | decXY (x : Index)
  | ldXYNN (x : Index) (nn : Word)
  | ldRXYd (x : Index) (r : Reg8) (d : Byte)
  | ldXYdR (x : Index) (d : Byte) (r : Reg8)
  | addAXYd (x : Index) (d : Byte)
  | subAXYd (x : Index) (d : Byte)
  | andAXYd (x : Index) (d : Byte)
  | xorAXYd (x : Index) (d : Byte)
  | orAXYd (x : Index) (d : Byte)
  | cpAXYd (x : Index) (d : Byte)
  | rlcXYd (x : Index) (d : Byte)
  | rrcXYd (x : Index) (d : Byte)
  | rlXYd (x : Index) (d : Byte)
  | rrXYd (x : Index) (d : Byte)
  | slaXYd (x : Index) (d : Byte)
  | sraXYd (x : Index) (d : Byte)
  | sllXYd (x : Index) (d : Byte)
  | srlXYd (x : Index) (d : Byte)
  | bitXYd (x : Index) (b : BitVec 3) (d : Byte)
  | resXYd (x : Index) (b : BitVec 3) (d : Byte)
  | setXYd (x : Index) (b : BitVec 3) (d : Byte)
  -- 47_tier2_base.md, R311 to R329 (tier 2)
  | nop
  | ldBCA
  | ldABC
  | ldDEA
  | ldADE
  | ldMemHL (nn : Word)
  | ldHLMem (nn : Word)
  | ldMemA (nn : Word)
  | ldAMem (nn : Word)
  | rlca
  | rrca
  | rla
  | rra
  | djnz (e : Byte)
  | daa
  | cpl
  | scf
  | ccf
  | jpHL
  -- 48_tier2_ed_ddfd.md, R340 to R358 (tier 2)
  | neg
  | rrd
  | rld
  | ldi
  | ldd
  | ldir
  | lddr
  | cpi
  | cpd
  | cpir
  | cpdr
  | ini
  | ind
  | inir
  | indr
  | outi
  | outd
  | otir
  | otdr
  -- 48_tier2_ed_ddfd.md, R360 to R371 (tier 2)
  | ldMemXY (nn : Word) (x : Index)
  | ldXYMem (x : Index) (nn : Word)
  | incXYd (x : Index) (d : Byte)
  | decXYd (x : Index) (d : Byte)
  | ldXYdN (x : Index) (d n : Byte)
  | adcAXYd (x : Index) (d : Byte)
  | sbcAXYd (x : Index) (d : Byte)
  | popXY (x : Index)
  | exSPXY (x : Index)
  | pushXY (x : Index)
  | jpXY (x : Index)
  | ldSPXY (x : Index)
deriving DecidableEq, Repr

end Sys2Proof
end

