-- ==== Sys2Proof/WellFormed.lean ====
section
/-! DEFINITION. Which instructions are in their tables (30_encoding.md R103, R106, 47_tier2_base.md R310).

The operand types of `Instr` leave out every excluded code (register code 6, a fifth condition of JR), so the one check left is the
tier-2 gate: a tier-1 row is always in its table, a tier-2 row exactly when `IMPL2` names it. -/

namespace Sys2Proof

/-- The tier-2 row an instruction belongs to; `none` for the 109 rows of tier 1 (R103). -/
def Instr.tier2Row : Instr → Option Tier2Row
  | .nop => some .nop
  | .ldBCA => some .ldBCA
  | .ldABC => some .ldABC
  | .ldDEA => some .ldDEA
  | .ldADE => some .ldADE
  | .ldMemHL _ => some .ldMemHL
  | .ldHLMem _ => some .ldHLMem
  | .ldMemA _ => some .ldMemA
  | .ldAMem _ => some .ldAMem
  | .rlca => some .rlca
  | .rrca => some .rrca
  | .rla => some .rla
  | .rra => some .rra
  | .djnz _ => some .djnz
  | .daa => some .daa
  | .cpl => some .cpl
  | .scf => some .scf
  | .ccf => some .ccf
  | .jpHL => some .jpHL
  | .neg => some .neg
  | .rrd => some .rrd
  | .rld => some .rld
  | .ldi => some .ldi
  | .ldd => some .ldd
  | .ldir => some .ldir
  | .lddr => some .lddr
  | .cpi => some .cpi
  | .cpd => some .cpd
  | .cpir => some .cpir
  | .cpdr => some .cpdr
  | .ini => some .ini
  | .ind => some .ind
  | .inir => some .inir
  | .indr => some .indr
  | .outi => some .outi
  | .outd => some .outd
  | .otir => some .otir
  | .otdr => some .otdr
  | .ldMemXY _ _ => some .ldMemXY
  | .ldXYMem _ _ => some .ldXYMem
  | .incXYd _ _ => some .incXYd
  | .decXYd _ _ => some .decXYd
  | .ldXYdN _ _ _ => some .ldXYdN
  | .adcAXYd _ _ => some .adcAXYd
  | .sbcAXYd _ _ => some .sbcAXYd
  | .popXY _ => some .popXY
  | .exSPXY _ => some .exSPXY
  | .pushXY _ => some .pushXY
  | .jpXY _ => some .jpXY
  | .ldSPXY _ => some .ldSPXY
  -- tier 1
  | .ldRR _ _ | .ldRHL _ | .ldHLR _ | .ldRN _ _ | .ldHLN _ | .ldDdNN _ _ | .ldSPHL => none
  | .push _ | .pop _ | .exDEHL | .exAFAF | .exx | .exSPHL => none
  | .addAR _ | .addAHL | .addAN _ | .adcAR _ | .adcAHL | .adcAN _ => none
  | .subAR _ | .subAHL | .subAN _ | .sbcAR _ | .sbcAHL | .sbcAN _ => none
  | .andAR _ | .andAHL | .andAN _ | .xorAR _ | .xorAHL | .xorAN _ => none
  | .orAR _ | .orAHL | .orAN _ | .cpAR _ | .cpAHL | .cpAN _ => none
  | .incR _ | .incHL | .decR _ | .decHL | .incSS _ | .decSS _ | .addHLSS _ => none
  | .jpNN _ | .jpCcNN _ _ | .jrE _ | .jrCcE _ _ | .callNN _ | .callCcNN _ _ => none
  | .ret | .retCc _ | .rst _ | .inAN _ | .outNA _ | .ei | .di | .halt => none
  | .rlcR _ | .rlcHL | .rrcR _ | .rrcHL | .rlR _ | .rlHL | .rrR _ | .rrHL => none
  | .slaR _ | .slaHL | .sraR _ | .sraHL | .sllR _ | .sllHL | .srlR _ | .srlHL => none
  | .bitR _ _ | .bitHL _ | .resR _ _ | .resHL _ | .setR _ _ | .setHL _ => none
  | .adcHLSS _ | .sbcHLSS _ | .ldMemDd _ _ | .ldDdMem _ _ | .inRC _ | .outCR _ => none
  | .addXY _ _ | .incXY _ | .decXY _ | .ldXYNN _ _ | .ldRXYd _ _ _ | .ldXYdR _ _ _ => none
  | .addAXYd _ _ | .subAXYd _ _ | .andAXYd _ _ | .xorAXYd _ _ | .orAXYd _ _ | .cpAXYd _ _ => none
  | .rlcXYd _ _ | .rrcXYd _ _ | .rlXYd _ _ | .rrXYd _ _ => none
  | .slaXYd _ _ | .sraXYd _ _ | .sllXYd _ _ | .srlXYd _ _ => none
  | .bitXYd _ _ _ | .resXYd _ _ _ | .setXYd _ _ _ => none

/-- The instruction's row is in its table when `IMPL2` is `impl2` (R106). -/
def Instr.wellFormed (impl2 : List Tier2Row) (i : Instr) : Bool :=
  match i.tier2Row with
  | none => true
  | some row => impl2.contains row

end Sys2Proof
end

