-- ==== Sys2Proof/Decode.lean ====
section
/-! DEFINITION. The dispatcher (30_encoding.md R82 to R107): from the bytes at PC to an instruction, or to the bytes an
`UnknownInstruction` reports; and the encoder, written from the same encoding tables.

The decoder reads a window of 4 bytes, the longest instruction (R81, R107). It is total, and where no row matches it names
the bytes fetched up to that point (R88). -/

namespace Sys2Proof

/-! ## Fields and operand codes -/

/-- `x = op[7:6]` (R91). -/
def opX (op : Byte) : Nat := (op.extractLsb' 6 2).toNat

/-- `y = op[5:3]` (R91): destination register, condition, operation, bit number, restart code. -/
def opY (op : Byte) : BitVec 3 := op.extractLsb' 3 3

/-- `z = op[2:0]` (R91): source register. -/
def opZ (op : Byte) : BitVec 3 := op.extractLsb' 0 3

/-- `p = op[5:4]` (R91): register pair. -/
def opP (op : Byte) : BitVec 2 := op.extractLsb' 4 2

/-- `nn = (hi << 8) | lo`, the low byte first in memory (R99). -/
def imm16 (lo hi : Byte) : Word := hi ++ lo

/-- The low byte of a 16-bit immediate. -/
def immLo (nn : Word) : Byte := nn.extractLsb' 0 8

/-- The high byte of a 16-bit immediate. -/
def immHi (nn : Word) : Byte := nn.extractLsb' 8 8

/-- The 8-bit register of a code; code 6 is no register (R92). -/
def reg8OfCode (k : BitVec 3) : Option Reg8 :=
  match k.toNat with
  | 0 => some .b
  | 1 => some .c
  | 2 => some .d
  | 3 => some .e
  | 4 => some .h
  | 5 => some .l
  | 7 => some .a
  | _ => none

/-- The code of an 8-bit register (R92). -/
def reg8Code : Reg8 → BitVec 3
  | .b => 0
  | .c => 1
  | .d => 2
  | .e => 3
  | .h => 4
  | .l => 5
  | .a => 7

/-- Column `dd`/`ss` of R93. -/
def pairOfCode (k : BitVec 2) : Pair :=
  match k.toNat with
  | 0 => .bc
  | 1 => .de
  | 2 => .hl
  | _ => .sp

/-- Column `dd`/`ss` of R93, back to the code. -/
def pairCode : Pair → BitVec 2
  | .bc => 0
  | .de => 1
  | .hl => 2
  | .sp => 3

/-- Column `qq` of R93. -/
def stackPairOfCode (k : BitVec 2) : StackPair :=
  match k.toNat with
  | 0 => .bc
  | 1 => .de
  | 2 => .hl
  | _ => .af

/-- Column `qq` of R93, back to the code. -/
def stackPairCode : StackPair → BitVec 2
  | .bc => 0
  | .de => 1
  | .hl => 2
  | .af => 3

/-- Column `pp` of R93. -/
def indexPairOfCode (k : BitVec 2) : IndexPair :=
  match k.toNat with
  | 0 => .bc
  | 1 => .de
  | 2 => .xy
  | _ => .sp

/-- Column `pp` of R93, back to the code. -/
def indexPairCode : IndexPair → BitVec 2
  | .bc => 0
  | .de => 1
  | .xy => 2
  | .sp => 3

/-- The 3-bit condition code (R94). -/
def condOfCode (k : BitVec 3) : Cond :=
  match k.toNat with
  | 0 => .nz
  | 1 => .z
  | 2 => .nc
  | 3 => .c
  | 4 => .po
  | 5 => .pe
  | 6 => .p
  | _ => .m

/-- The 3-bit condition code (R94), back to the code. -/
def condCode : Cond → BitVec 3
  | .nz => 0
  | .z => 1
  | .nc => 2
  | .c => 3
  | .po => 4
  | .pe => 5
  | .p => 6
  | .m => 7

/-- The 2-bit condition code of JR cc, `op[4:3]` (R94). -/
def relCondOfCode (k : BitVec 2) : RelCond :=
  match k.toNat with
  | 0 => .nz
  | 1 => .z
  | 2 => .nc
  | _ => .c

/-- The 2-bit condition code (R94), back to the code. -/
def relCondCode : RelCond → BitVec 2
  | .nz => 0
  | .z => 1
  | .nc => 2
  | .c => 3

/-- The first byte of an indexed instruction: `DD` for IX, `FD` for IY (R97). -/
def indexByte : Index → Byte
  | .ix => 0xDD
  | .iy => 0xFD

/-! ## The five tables

Each function takes the (sub-)opcode and the two bytes after it, which a row without operands does not look at. -/

/-- The eight accumulator operations on a register: `10 ooo sss` (R211). -/
def aluRegRow (o : BitVec 3) (r : Reg8) : Instr :=
  match o.toNat with
  | 0 => .addAR r
  | 1 => .adcAR r
  | 2 => .subAR r
  | 3 => .sbcAR r
  | 4 => .andAR r
  | 5 => .xorAR r
  | 6 => .orAR r
  | _ => .cpAR r

/-- The eight accumulator operations on (HL): `10 ooo 110` (R211). -/
def aluMemRow (o : BitVec 3) : Instr :=
  match o.toNat with
  | 0 => .addAHL
  | 1 => .adcAHL
  | 2 => .subAHL
  | 3 => .sbcAHL
  | 4 => .andAHL
  | 5 => .xorAHL
  | 6 => .orAHL
  | _ => .cpAHL

/-- The eight accumulator operations on an immediate: `11 ooo 110`, n (R211). -/
def aluImmRow (o : BitVec 3) (n : Byte) : Instr :=
  match o.toNat with
  | 0 => .addAN n
  | 1 => .adcAN n
  | 2 => .subAN n
  | 3 => .sbcAN n
  | 4 => .andAN n
  | 5 => .xorAN n
  | 6 => .orAN n
  | _ => .cpAN n

/-- The base table, opcodes 00 to 3F (section 5.1). -/
def baseRow0 (op o1 o2 : Byte) : Option Instr :=
  let nn := imm16 o1 o2
  match (opZ op).toNat with
  | 0 =>
    match (opY op).toNat with
    | 0 => some .nop
    | 1 => some .exAFAF
    | 2 => some (.djnz o1)
    | 3 => some (.jrE o1)
    | _ => some (.jrCcE (relCondOfCode (op.extractLsb' 3 2)) o1)
  | 1 => if op.getLsbD 3 then some (.addHLSS (pairOfCode (opP op))) else some (.ldDdNN (pairOfCode (opP op)) nn)
  | 2 =>
    match (opY op).toNat with
    | 0 => some .ldBCA
    | 1 => some .ldABC
    | 2 => some .ldDEA
    | 3 => some .ldADE
    | 4 => some (.ldMemHL nn)
    | 5 => some (.ldHLMem nn)
    | 6 => some (.ldMemA nn)
    | _ => some (.ldAMem nn)
  | 3 => if op.getLsbD 3 then some (.decSS (pairOfCode (opP op))) else some (.incSS (pairOfCode (opP op)))
  | 4 =>
    match reg8OfCode (opY op) with
    | some r => some (.incR r)
    | none => some .incHL
  | 5 =>
    match reg8OfCode (opY op) with
    | some r => some (.decR r)
    | none => some .decHL
  | 6 =>
    match reg8OfCode (opY op) with
    | some r => some (.ldRN r o1)
    | none => some (.ldHLN o1)
  | _ =>
    match (opY op).toNat with
    | 0 => some .rlca
    | 1 => some .rrca
    | 2 => some .rla
    | 3 => some .rra
    | 4 => some .daa
    | 5 => some .cpl
    | 6 => some .scf
    | _ => some .ccf

/-- The base table, opcodes 40 to 7F: the 8-bit loads and HALT (section 5.1). -/
def baseRow1 (op : Byte) : Option Instr :=
  match reg8OfCode (opY op), reg8OfCode (opZ op) with
  | some r, some s => some (.ldRR r s)
  | some r, none => some (.ldRHL r)
  | none, some s => some (.ldHLR s)
  | none, none => some .halt

/-- The base table, opcodes 80 to BF: the accumulator operations (section 5.1). -/
def baseRow2 (op : Byte) : Option Instr :=
  match reg8OfCode (opZ op) with
  | some s => some (aluRegRow (opY op) s)
  | none => some (aluMemRow (opY op))

/-- The base table, opcodes C0 to FF; the four lead-in bytes hold no row of it (section 5.1). -/
def baseRow3 (op o1 o2 : Byte) : Option Instr :=
  let nn := imm16 o1 o2
  match (opZ op).toNat with
  | 0 => some (.retCc (condOfCode (opY op)))
  | 1 =>
    match (opY op).toNat with
    | 1 => some .ret
    | 3 => some .exx
    | 5 => some .jpHL
    | 7 => some .ldSPHL
    | _ => some (.pop (stackPairOfCode (opP op)))
  | 2 => some (.jpCcNN (condOfCode (opY op)) nn)
  | 3 =>
    match (opY op).toNat with
    | 0 => some (.jpNN nn)
    | 2 => some (.outNA o1)
    | 3 => some (.inAN o1)
    | 4 => some .exSPHL
    | 5 => some .exDEHL
    | 6 => some .di
    | 7 => some .ei
    | _ => none
  | 4 => some (.callCcNN (condOfCode (opY op)) nn)
  | 5 =>
    match (opY op).toNat with
    | 1 => some (.callNN nn)
    | 3 => none
    | 5 => none
    | 7 => none
    | _ => some (.push (stackPairOfCode (opP op)))
  | 6 => some (aluImmRow (opY op) o1)
  | _ => some (.rst (opY op))

/-- The base table (R83, section 5.1). -/
def baseRow (op o1 o2 : Byte) : Option Instr :=
  match opX op with
  | 0 => baseRow0 op o1 o2
  | 1 => baseRow1 op
  | 2 => baseRow2 op
  | _ => baseRow3 op o1 o2

/-- The CB table (R84, section 5.2): every sub-opcode has a row. -/
def cbRow (sub : Byte) : Instr :=
  let y := opY sub
  match opX sub, reg8OfCode (opZ sub) with
  | 0, some r =>
    match y.toNat with
    | 0 => .rlcR r
    | 1 => .rrcR r
    | 2 => .rlR r
    | 3 => .rrR r
    | 4 => .slaR r
    | 5 => .sraR r
    | 6 => .sllR r
    | _ => .srlR r
  | 0, none =>
    match y.toNat with
    | 0 => .rlcHL
    | 1 => .rrcHL
    | 2 => .rlHL
    | 3 => .rrHL
    | 4 => .slaHL
    | 5 => .sraHL
    | 6 => .sllHL
    | _ => .srlHL
  | 1, some r => .bitR y r
  | 1, none => .bitHL y
  | 2, some r => .resR y r
  | 2, none => .resHL y
  | _, some r => .setR y r
  | _, none => .setHL y

/-- The block instructions of the ED table: `10 1dr 0kk` (section 5.3). -/
def edBlockRow (sub : Byte) : Option Instr :=
  match sub.toNat with
  | 0xA0 => some .ldi
  | 0xA1 => some .cpi
  | 0xA2 => some .ini
  | 0xA3 => some .outi
  | 0xA8 => some .ldd
  | 0xA9 => some .cpd
  | 0xAA => some .ind
  | 0xAB => some .outd
  | 0xB0 => some .ldir
  | 0xB1 => some .cpir
  | 0xB2 => some .inir
  | 0xB3 => some .otir
  | 0xB8 => some .lddr
  | 0xB9 => some .cpdr
  | 0xBA => some .indr
  | 0xBB => some .otdr
  | _ => none

/-- The ED table (R85, section 5.3); tier 3 has no row in it (R375). -/
def edRow (sub o1 o2 : Byte) : Option Instr :=
  match opX sub with
  | 1 =>
    match (opZ sub).toNat with
    | 0 => (reg8OfCode (opY sub)).map .inRC
    | 1 => (reg8OfCode (opY sub)).map .outCR
    | 2 => if sub.getLsbD 3 then some (.adcHLSS (pairOfCode (opP sub))) else some (.sbcHLSS (pairOfCode (opP sub)))
    | 3 =>
      if sub.getLsbD 3 then some (.ldDdMem (pairOfCode (opP sub)) (imm16 o1 o2))
      else some (.ldMemDd (imm16 o1 o2) (pairOfCode (opP sub)))
    | 4 => if sub = 0x44 then some .neg else none
    | 7 => if sub = 0x67 then some .rrd else if sub = 0x6F then some .rld else none
    | _ => none
  | 2 => edBlockRow sub
  | _ => none

/-- The DD/FD table, sub-opcodes 00 to 3F (section 5.4). -/
def xyRow0 (x : Index) (sub o1 o2 : Byte) : Option Instr :=
  match sub.toNat with
  | 0x09 => some (.addXY x .bc)
  | 0x19 => some (.addXY x .de)
  | 0x29 => some (.addXY x .xy)
  | 0x39 => some (.addXY x .sp)
  | 0x21 => some (.ldXYNN x (imm16 o1 o2))
  | 0x22 => some (.ldMemXY (imm16 o1 o2) x)
  | 0x23 => some (.incXY x)
  | 0x2A => some (.ldXYMem x (imm16 o1 o2))
  | 0x2B => some (.decXY x)
  | 0x34 => some (.incXYd x o1)
  | 0x35 => some (.decXYd x o1)
  | 0x36 => some (.ldXYdN x o1 o2)
  | _ => none

/-- The DD/FD table, sub-opcodes 40 to 7F: indexed loads; `DD 76` has no row (section 5.4). -/
def xyRow1 (x : Index) (sub d : Byte) : Option Instr :=
  match reg8OfCode (opY sub), reg8OfCode (opZ sub) with
  | some r, none => some (.ldRXYd x r d)
  | none, some s => some (.ldXYdR x d s)
  | _, _ => none

/-- The DD/FD table, sub-opcodes 80 to BF: accumulator operations on (XY+d) (section 5.4). -/
def xyRow2 (x : Index) (sub d : Byte) : Option Instr :=
  if opZ sub = 6 then
    match (opY sub).toNat with
    | 0 => some (.addAXYd x d)
    | 1 => some (.adcAXYd x d)
    | 2 => some (.subAXYd x d)
    | 3 => some (.sbcAXYd x d)
    | 4 => some (.andAXYd x d)
    | 5 => some (.xorAXYd x d)
    | 6 => some (.orAXYd x d)
    | _ => some (.cpAXYd x d)
  else none

/-- The DD/FD table, sub-opcodes C0 to FF (section 5.4). -/
def xyRow3 (x : Index) (sub : Byte) : Option Instr :=
  match sub.toNat with
  | 0xE1 => some (.popXY x)
  | 0xE3 => some (.exSPXY x)
  | 0xE5 => some (.pushXY x)
  | 0xE9 => some (.jpXY x)
  | 0xF9 => some (.ldSPXY x)
  | _ => none

/-- The DD/FD table (R86, section 5.4), `o1` and `o2` being the bytes after the sub-opcode. -/
def xyRow (x : Index) (sub o1 o2 : Byte) : Option Instr :=
  match opX sub with
  | 0 => xyRow0 x sub o1 o2
  | 1 => xyRow1 x sub o1
  | 2 => xyRow2 x sub o1
  | _ => xyRow3 x sub

/-- The DDCB/FDCB table (R87, section 5.5): the displacement comes before the sub-opcode, and only `z = 6` has rows. -/
def xycbRow (x : Index) (d sub : Byte) : Option Instr :=
  let y := opY sub
  if opZ sub = 6 then
    match opX sub with
    | 0 =>
      match y.toNat with
      | 0 => some (.rlcXYd x d)
      | 1 => some (.rrcXYd x d)
      | 2 => some (.rlXYd x d)
      | 3 => some (.rrXYd x d)
      | 4 => some (.slaXYd x d)
      | 5 => some (.sraXYd x d)
      | 6 => some (.sllXYd x d)
      | _ => some (.srlXYd x d)
    | 1 => some (.bitXYd x y d)
    | 2 => some (.resXYd x y d)
    | _ => some (.setXYd x y d)
  else none

/-! ## The dispatcher -/

/-- The four bytes from the first byte of an instruction on (R399). -/
structure Window where
  b0 : Byte
  b1 : Byte
  b2 : Byte
  b3 : Byte
deriving DecidableEq, Repr

/-- The bytes of a window, lowest address first. -/
def Window.bytes (w : Window) : List Byte := [w.b0, w.b1, w.b2, w.b3]

/-- What the dispatcher finds: a row, or the bytes it had fetched when it found none (R88). -/
inductive Decoded where
  | row (i : Instr)
  | unknown (bytes : List Byte)
deriving DecidableEq, Repr

/-- A row found in a table counts only if the tier-2 gate lets it in (R106); `seen` are the bytes fetched so far. -/
def gate (impl2 : List Tier2Row) (seen : List Byte) : Option Instr → Decoded
  | none => .unknown seen
  | some i => if i.wellFormed impl2 then .row i else .unknown seen

/-- The second and third steps of R86: a DD/FD instruction with its index register chosen by the first byte. -/
def decodeXY (impl2 : List Tier2Row) (x : Index) (w : Window) : Decoded :=
  if w.b1 = 0xCB then gate impl2 w.bytes (xycbRow x w.b2 w.b3)
  else gate impl2 [w.b0, w.b1] (xyRow x w.b1 w.b2 w.b3)

/-- The dispatcher (R82 to R88): the first byte selects the table, the sub-opcode alone the row. -/
def decode (impl2 : List Tier2Row) (w : Window) : Decoded :=
  if w.b0 = 0xCB then .row (cbRow w.b1)
  else if w.b0 = 0xED then gate impl2 [w.b0, w.b1] (edRow w.b1 w.b2 w.b3)
  else if w.b0 = 0xDD then decodeXY impl2 .ix w
  else if w.b0 = 0xFD then decodeXY impl2 .iy w
  else gate impl2 [w.b0] (baseRow w.b0 w.b1 w.b2)

/-! ## Formats and lengths -/

/-- The length of a format in bytes (R81). -/
def formatLength : Format → Nat
  | .b1 => 1
  | .b2n => 2
  | .b2e => 2
  | .b3nn => 3
  | .cb2 => 2
  | .ed2 => 2
  | .ed4nn => 4
  | .x2 => 2
  | .x3d => 3
  | .x4nn => 4
  | .x4dn => 4
  | .xcb4 => 4

/-- The format of each row (spec/opcode_table.json, field "format"). -/
def Instr.format : Instr → Format
  | .ldRR _ _ => .b1
  | .ldRHL _ => .b1
  | .ldHLR _ => .b1
  | .ldRN _ _ => .b2n
  | .ldHLN _ => .b2n
  | .ldDdNN _ _ => .b3nn
  | .ldSPHL => .b1
  | .push _ => .b1
  | .pop _ => .b1
  | .exDEHL => .b1
  | .exAFAF => .b1
  | .exx => .b1
  | .exSPHL => .b1
  | .addAR _ => .b1
  | .addAHL => .b1
  | .addAN _ => .b2n
  | .adcAR _ => .b1
  | .adcAHL => .b1
  | .adcAN _ => .b2n
  | .subAR _ => .b1
  | .subAHL => .b1
  | .subAN _ => .b2n
  | .sbcAR _ => .b1
  | .sbcAHL => .b1
  | .sbcAN _ => .b2n
  | .andAR _ => .b1
  | .andAHL => .b1
  | .andAN _ => .b2n
  | .xorAR _ => .b1
  | .xorAHL => .b1
  | .xorAN _ => .b2n
  | .orAR _ => .b1
  | .orAHL => .b1
  | .orAN _ => .b2n
  | .cpAR _ => .b1
  | .cpAHL => .b1
  | .cpAN _ => .b2n
  | .incR _ => .b1
  | .incHL => .b1
  | .decR _ => .b1
  | .decHL => .b1
  | .incSS _ => .b1
  | .decSS _ => .b1
  | .addHLSS _ => .b1
  | .jpNN _ => .b3nn
  | .jpCcNN _ _ => .b3nn
  | .jrE _ => .b2e
  | .jrCcE _ _ => .b2e
  | .callNN _ => .b3nn
  | .callCcNN _ _ => .b3nn
  | .ret => .b1
  | .retCc _ => .b1
  | .rst _ => .b1
  | .inAN _ => .b2n
  | .outNA _ => .b2n
  | .ei => .b1
  | .di => .b1
  | .halt => .b1
  | .rlcR _ => .cb2
  | .rlcHL => .cb2
  | .rrcR _ => .cb2
  | .rrcHL => .cb2
  | .rlR _ => .cb2
  | .rlHL => .cb2
  | .rrR _ => .cb2
  | .rrHL => .cb2
  | .slaR _ => .cb2
  | .slaHL => .cb2
  | .sraR _ => .cb2
  | .sraHL => .cb2
  | .sllR _ => .cb2
  | .sllHL => .cb2
  | .srlR _ => .cb2
  | .srlHL => .cb2
  | .bitR _ _ => .cb2
  | .bitHL _ => .cb2
  | .resR _ _ => .cb2
  | .resHL _ => .cb2
  | .setR _ _ => .cb2
  | .setHL _ => .cb2
  | .adcHLSS _ => .ed2
  | .sbcHLSS _ => .ed2
  | .ldMemDd _ _ => .ed4nn
  | .ldDdMem _ _ => .ed4nn
  | .inRC _ => .ed2
  | .outCR _ => .ed2
  | .addXY _ _ => .x2
  | .incXY _ => .x2
  | .decXY _ => .x2
  | .ldXYNN _ _ => .x4nn
  | .ldRXYd _ _ _ => .x3d
  | .ldXYdR _ _ _ => .x3d
  | .addAXYd _ _ => .x3d
  | .subAXYd _ _ => .x3d
  | .andAXYd _ _ => .x3d
  | .xorAXYd _ _ => .x3d
  | .orAXYd _ _ => .x3d
  | .cpAXYd _ _ => .x3d
  | .rlcXYd _ _ => .xcb4
  | .rrcXYd _ _ => .xcb4
  | .rlXYd _ _ => .xcb4
  | .rrXYd _ _ => .xcb4
  | .slaXYd _ _ => .xcb4
  | .sraXYd _ _ => .xcb4
  | .sllXYd _ _ => .xcb4
  | .srlXYd _ _ => .xcb4
  | .bitXYd _ _ _ => .xcb4
  | .resXYd _ _ _ => .xcb4
  | .setXYd _ _ _ => .xcb4
  | .nop => .b1
  | .ldBCA => .b1
  | .ldABC => .b1
  | .ldDEA => .b1
  | .ldADE => .b1
  | .ldMemHL _ => .b3nn
  | .ldHLMem _ => .b3nn
  | .ldMemA _ => .b3nn
  | .ldAMem _ => .b3nn
  | .rlca => .b1
  | .rrca => .b1
  | .rla => .b1
  | .rra => .b1
  | .djnz _ => .b2e
  | .daa => .b1
  | .cpl => .b1
  | .scf => .b1
  | .ccf => .b1
  | .jpHL => .b1
  | .neg => .ed2
  | .rrd => .ed2
  | .rld => .ed2
  | .ldi => .ed2
  | .ldd => .ed2
  | .ldir => .ed2
  | .lddr => .ed2
  | .cpi => .ed2
  | .cpd => .ed2
  | .cpir => .ed2
  | .cpdr => .ed2
  | .ini => .ed2
  | .ind => .ed2
  | .inir => .ed2
  | .indr => .ed2
  | .outi => .ed2
  | .outd => .ed2
  | .otir => .ed2
  | .otdr => .ed2
  | .ldMemXY _ _ => .x4nn
  | .ldXYMem _ _ => .x4nn
  | .incXYd _ _ => .x3d
  | .decXYd _ _ => .x3d
  | .ldXYdN _ _ _ => .x4dn
  | .adcAXYd _ _ => .x3d
  | .sbcAXYd _ _ => .x3d
  | .popXY _ => .x2
  | .exSPXY _ => .x2
  | .pushXY _ => .x2
  | .jpXY _ => .x2
  | .ldSPXY _ => .x2

/-- The length of an instruction in bytes (R81, R105): it depends on the row alone. -/
def Instr.length (i : Instr) : Nat := formatLength i.format

/-! ## The encoder -/

/-- A byte written as the pattern `xx yyy zzz` (R91). -/
def opcodeXYZ (x : BitVec 2) (y z : BitVec 3) : Byte := x ++ y ++ z

/-- A byte written as the pattern `xx pp nnnn`. -/
def opcodeXPN (x p : BitVec 2) (low : BitVec 4) : Byte := x ++ p ++ low

/-- The bytes of an instruction in memory order, from the column "encoding" of spec/opcode_table.json (R107). -/
def encode : Instr → List Byte
  | .ldRR dst src => [opcodeXYZ 1 (reg8Code dst) (reg8Code src)]
  | .ldRHL r => [opcodeXYZ 1 (reg8Code r) 6]
  | .ldHLR r => [opcodeXYZ 1 6 (reg8Code r)]
  | .ldRN r n => [opcodeXYZ 0 (reg8Code r) 6, n]
  | .ldHLN n => [0x36, n]
  | .ldDdNN p nn => [opcodeXPN 0 (pairCode p) 0x1, immLo nn, immHi nn]
  | .ldSPHL => [0xF9]
  | .push q => [opcodeXPN 3 (stackPairCode q) 0x5]
  | .pop q => [opcodeXPN 3 (stackPairCode q) 0x1]
  | .exDEHL => [0xEB]
  | .exAFAF => [0x08]
  | .exx => [0xD9]
  | .exSPHL => [0xE3]
  | .addAR r => [opcodeXYZ 2 0 (reg8Code r)]
  | .addAHL => [0x86]
  | .addAN n => [0xC6, n]
  | .adcAR r => [opcodeXYZ 2 1 (reg8Code r)]
  | .adcAHL => [0x8E]
  | .adcAN n => [0xCE, n]
  | .subAR r => [opcodeXYZ 2 2 (reg8Code r)]
  | .subAHL => [0x96]
  | .subAN n => [0xD6, n]
  | .sbcAR r => [opcodeXYZ 2 3 (reg8Code r)]
  | .sbcAHL => [0x9E]
  | .sbcAN n => [0xDE, n]
  | .andAR r => [opcodeXYZ 2 4 (reg8Code r)]
  | .andAHL => [0xA6]
  | .andAN n => [0xE6, n]
  | .xorAR r => [opcodeXYZ 2 5 (reg8Code r)]
  | .xorAHL => [0xAE]
  | .xorAN n => [0xEE, n]
  | .orAR r => [opcodeXYZ 2 6 (reg8Code r)]
  | .orAHL => [0xB6]
  | .orAN n => [0xF6, n]
  | .cpAR r => [opcodeXYZ 2 7 (reg8Code r)]
  | .cpAHL => [0xBE]
  | .cpAN n => [0xFE, n]
  | .incR r => [opcodeXYZ 0 (reg8Code r) 4]
  | .incHL => [0x34]
  | .decR r => [opcodeXYZ 0 (reg8Code r) 5]
  | .decHL => [0x35]
  | .incSS p => [opcodeXPN 0 (pairCode p) 0x3]
  | .decSS p => [opcodeXPN 0 (pairCode p) 0xB]
  | .addHLSS p => [opcodeXPN 0 (pairCode p) 0x9]
  | .jpNN nn => [0xC3, immLo nn, immHi nn]
  | .jpCcNN cc nn => [opcodeXYZ 3 (condCode cc) 2, immLo nn, immHi nn]
  | .jrE e => [0x18, e]
  | .jrCcE cc e => [opcodeXYZ 0 (1#1 ++ relCondCode cc) 0, e]
  | .callNN nn => [0xCD, immLo nn, immHi nn]
  | .callCcNN cc nn => [opcodeXYZ 3 (condCode cc) 4, immLo nn, immHi nn]
  | .ret => [0xC9]
  | .retCc cc => [opcodeXYZ 3 (condCode cc) 0]
  | .rst t => [opcodeXYZ 3 t 7]
  | .inAN n => [0xDB, n]
  | .outNA n => [0xD3, n]
  | .ei => [0xFB]
  | .di => [0xF3]
  | .halt => [0x76]
  | .rlcR r => [0xCB, opcodeXYZ 0 0 (reg8Code r)]
  | .rlcHL => [0xCB, 0x06]
  | .rrcR r => [0xCB, opcodeXYZ 0 1 (reg8Code r)]
  | .rrcHL => [0xCB, 0x0E]
  | .rlR r => [0xCB, opcodeXYZ 0 2 (reg8Code r)]
  | .rlHL => [0xCB, 0x16]
  | .rrR r => [0xCB, opcodeXYZ 0 3 (reg8Code r)]
  | .rrHL => [0xCB, 0x1E]
  | .slaR r => [0xCB, opcodeXYZ 0 4 (reg8Code r)]
  | .slaHL => [0xCB, 0x26]
  | .sraR r => [0xCB, opcodeXYZ 0 5 (reg8Code r)]
  | .sraHL => [0xCB, 0x2E]
  | .sllR r => [0xCB, opcodeXYZ 0 6 (reg8Code r)]
  | .sllHL => [0xCB, 0x36]
  | .srlR r => [0xCB, opcodeXYZ 0 7 (reg8Code r)]
  | .srlHL => [0xCB, 0x3E]
  | .bitR b r => [0xCB, opcodeXYZ 1 b (reg8Code r)]
  | .bitHL b => [0xCB, opcodeXYZ 1 b 6]
  | .resR b r => [0xCB, opcodeXYZ 2 b (reg8Code r)]
  | .resHL b => [0xCB, opcodeXYZ 2 b 6]
  | .setR b r => [0xCB, opcodeXYZ 3 b (reg8Code r)]
  | .setHL b => [0xCB, opcodeXYZ 3 b 6]
  | .adcHLSS p => [0xED, opcodeXPN 1 (pairCode p) 0xA]
  | .sbcHLSS p => [0xED, opcodeXPN 1 (pairCode p) 0x2]
  | .ldMemDd nn p => [0xED, opcodeXPN 1 (pairCode p) 0x3, immLo nn, immHi nn]
  | .ldDdMem p nn => [0xED, opcodeXPN 1 (pairCode p) 0xB, immLo nn, immHi nn]
  | .inRC r => [0xED, opcodeXYZ 1 (reg8Code r) 0]
  | .outCR r => [0xED, opcodeXYZ 1 (reg8Code r) 1]
  | .addXY x p => [indexByte x, opcodeXPN 0 (indexPairCode p) 0x9]
  | .incXY x => [indexByte x, 0x23]
  | .decXY x => [indexByte x, 0x2B]
  | .ldXYNN x nn => [indexByte x, 0x21, immLo nn, immHi nn]
  | .ldRXYd x r d => [indexByte x, opcodeXYZ 1 (reg8Code r) 6, d]
  | .ldXYdR x d r => [indexByte x, opcodeXYZ 1 6 (reg8Code r), d]
  | .addAXYd x d => [indexByte x, 0x86, d]
  | .subAXYd x d => [indexByte x, 0x96, d]
  | .andAXYd x d => [indexByte x, 0xA6, d]
  | .xorAXYd x d => [indexByte x, 0xAE, d]
  | .orAXYd x d => [indexByte x, 0xB6, d]
  | .cpAXYd x d => [indexByte x, 0xBE, d]
  | .rlcXYd x d => [indexByte x, 0xCB, d, 0x06]
  | .rrcXYd x d => [indexByte x, 0xCB, d, 0x0E]
  | .rlXYd x d => [indexByte x, 0xCB, d, 0x16]
  | .rrXYd x d => [indexByte x, 0xCB, d, 0x1E]
  | .slaXYd x d => [indexByte x, 0xCB, d, 0x26]
  | .sraXYd x d => [indexByte x, 0xCB, d, 0x2E]
  | .sllXYd x d => [indexByte x, 0xCB, d, 0x36]
  | .srlXYd x d => [indexByte x, 0xCB, d, 0x3E]
  | .bitXYd x b d => [indexByte x, 0xCB, d, opcodeXYZ 1 b 6]
  | .resXYd x b d => [indexByte x, 0xCB, d, opcodeXYZ 2 b 6]
  | .setXYd x b d => [indexByte x, 0xCB, d, opcodeXYZ 3 b 6]
  | .nop => [0x00]
  | .ldBCA => [0x02]
  | .ldABC => [0x0A]
  | .ldDEA => [0x12]
  | .ldADE => [0x1A]
  | .ldMemHL nn => [0x22, immLo nn, immHi nn]
  | .ldHLMem nn => [0x2A, immLo nn, immHi nn]
  | .ldMemA nn => [0x32, immLo nn, immHi nn]
  | .ldAMem nn => [0x3A, immLo nn, immHi nn]
  | .rlca => [0x07]
  | .rrca => [0x0F]
  | .rla => [0x17]
  | .rra => [0x1F]
  | .djnz e => [0x10, e]
  | .daa => [0x27]
  | .cpl => [0x2F]
  | .scf => [0x37]
  | .ccf => [0x3F]
  | .jpHL => [0xE9]
  | .neg => [0xED, 0x44]
  | .rrd => [0xED, 0x67]
  | .rld => [0xED, 0x6F]
  | .ldi => [0xED, 0xA0]
  | .ldd => [0xED, 0xA8]
  | .ldir => [0xED, 0xB0]
  | .lddr => [0xED, 0xB8]
  | .cpi => [0xED, 0xA1]
  | .cpd => [0xED, 0xA9]
  | .cpir => [0xED, 0xB1]
  | .cpdr => [0xED, 0xB9]
  | .ini => [0xED, 0xA2]
  | .ind => [0xED, 0xAA]
  | .inir => [0xED, 0xB2]
  | .indr => [0xED, 0xBA]
  | .outi => [0xED, 0xA3]
  | .outd => [0xED, 0xAB]
  | .otir => [0xED, 0xB3]
  | .otdr => [0xED, 0xBB]
  | .ldMemXY nn x => [indexByte x, 0x22, immLo nn, immHi nn]
  | .ldXYMem x nn => [indexByte x, 0x2A, immLo nn, immHi nn]
  | .incXYd x d => [indexByte x, 0x34, d]
  | .decXYd x d => [indexByte x, 0x35, d]
  | .ldXYdN x d n => [indexByte x, 0x36, d, n]
  | .adcAXYd x d => [indexByte x, 0x8E, d]
  | .sbcAXYd x d => [indexByte x, 0x9E, d]
  | .popXY x => [indexByte x, 0xE1]
  | .exSPXY x => [indexByte x, 0xE3]
  | .pushXY x => [indexByte x, 0xE5]
  | .jpXY x => [indexByte x, 0xE9]
  | .ldSPXY x => [indexByte x, 0xF9]

/-! ## The decoder on a word of the opcode table -/

/-- The first four bytes of a list, 0 where it is shorter. -/
def windowOf : List Byte → Window
  | [] => ⟨0, 0, 0, 0⟩
  | [b0] => ⟨b0, 0, 0, 0⟩
  | [b0, b1] => ⟨b0, b1, 0, 0⟩
  | [b0, b1, b2] => ⟨b0, b1, b2, 0⟩
  | b0 :: b1 :: b2 :: b3 :: _ => ⟨b0, b1, b2, b3⟩

/-- The last `k` bytes of the number `w`, the most significant first. -/
def bytesOfNat : Nat → Nat → List Byte
  | 0, _ => []
  | k + 1, w => BitVec.ofNat 8 (w / 256 ^ k) :: bytesOfNat k w

/-- The bytes of an instruction whose bits are `w`, numbered as spec/opcode_table.json numbers them: the leftmost byte of a row's
"encoding" is the byte at the lowest address and holds the most significant bits of the row's number (R107; log 7). -/
def tableBytes (nbits w : Nat) : List Byte := bytesOfNat (nbits / 8) w

/-- The instruction the decoder reads from a word of the table, every tier-2 row being in its table. -/
def decodeTableWord (nbits w : Nat) : Option Instr :=
  match decode Tier2Row.all (windowOf (tableBytes nbits w)) with
  | .row i => some i
  | .unknown _ => none

end Sys2Proof
end

