-- ==== Sys2Proof/Machine/Bits.lean ====
section
/-! DEFINITION. The width functions and bit helpers of the spec (00_scope.md R10, 10_state.md R21, 40_alu_flags.md R139, R142). -/

namespace Sys2Proof.Machine

/-- `lo8(w) = w mod 256` (R10). -/
def lo8 (w : Word) : Byte := w.extractLsb' 0 8

/-- `hi8(w) = (w div 256) mod 256` (R10). -/
def hi8 (w : Word) : Byte := w.extractLsb' 8 8

/-- `(hi << 8) | lo` (R52, R99). -/
def join (hi lo : Byte) : Word := hi ++ lo

/-- `sext_16(v)` (R10): `v` below 128, else `v + 0xFF00`. -/
def sext16 (v : Byte) : Word := v.signExtend 16

/-- The low nibble `v[3:0]`. -/
def loNib (v : Byte) : BitVec 4 := v.extractLsb' 0 4

/-- The high nibble `v[7:4]`. -/
def hiNib (v : Byte) : BitVec 4 := v.extractLsb' 4 4

/-- `popcount(v)`: how many bits of `v` are 1. -/
def popcount (v : Byte) : Nat :=
  (v.getLsbD 0).toNat + (v.getLsbD 1).toNat + (v.getLsbD 2).toNat + (v.getLsbD 3).toNat +
  (v.getLsbD 4).toNat + (v.getLsbD 5).toNat + (v.getLsbD 6).toNat + (v.getLsbD 7).toNat

/-- `parityEven(v)`: "true iff popcount(v) is even" (R139). -/
def parityEven (v : Byte) : Bool := popcount v % 2 == 0

/-- `setBit(v, i) = v | (1 << i)` (R142). -/
def setBit (v : Byte) (i : BitVec 3) : Byte := v ||| (1#8 <<< i.toNat)

/-- `resBit(v, i) = v & not8(1 << i)` (R142). -/
def resBit (v : Byte) (i : BitVec 3) : Byte := v &&& ~~~(1#8 <<< i.toNat)

end Sys2Proof.Machine
end

