-- ==== Sys2Proof/Machine/Params.lean ====
section
/-! DEFINITION. The fixed values of the engine (00_scope.md R6) and the values its open parameters have at reset. -/

namespace Sys2Proof.Machine

/-- The open parameters of the machine `State.reset`: every tier-2 row is in its table (DESIGN CHOICE, log 1: the spec's default is the
empty set, and R310 gives all 50 rows to "a model meant to run ordinary Z80 programs"); `SUB_HALF_POLICY` is `literal` and
`IRQ_ENTRY_CLEARS_IFF` is `false`, the spec's defaults (R6; log 2, 3). -/
def resetParams : Params :=
  { impl2 := Tier2Row.all, subHalf := .literal, irqEntryClearsIff := false }

/-- What a Memory byte holds before anything is written: 0x00 (10_state.md R36, decision D30). -/
def unlistedByte : Byte := 0x00

/-- PC after reset (70_reset_and_hazards.md R440). -/
def resetPc : Word := 0x0000

/-- The entry of the maskable interrupt (60_exceptions.md R417). -/
def interruptVector : Word := 0x0038

end Sys2Proof.Machine
end

