-- ==== Sys2Proof/Machine/State.lean ====
section
/-! DEFINITION. All the state the spec gives the engine (10_state.md), as plain data, and the state right after reset. -/

namespace Sys2Proof.Machine

/-- The flag byte F, all eight bits (R27). `b5` and `b3` are the two bits that are stored but not modelled. -/
structure Flags where
  s : Bool
  z : Bool
  b5 : Bool
  h : Bool
  b3 : Bool
  pv : Bool
  n : Bool
  c : Bool
deriving DecidableEq, Repr

/-- F = 0x00. -/
def Flags.zero : Flags := ⟨false, false, false, false, false, false, false, false⟩

/-- The run state (R31). -/
inductive RunState where
  | running
  | halted
deriving DecidableEq, Repr

/-- The record of an `UnknownInstruction` (R35, 60_exceptions.md R411): the bytes the decoder had fetched and the address of the first. -/
structure FaultRecord where
  bytes : List Byte
  pc : Word
deriving DecidableEq, Repr

/-- A device bound to a slot, as far as the engine can see it (20_memory.md R60): the oracle answers still to come, which are an input of
the model, and the calls it has had, newest first. Where `script` is used up the answer is a free value of Config (log 5). -/
structure Device where
  script : List Answer
  calls : List DeviceCall
deriving DecidableEq, Repr

/-- Memory (20_memory.md R50) as (address, byte) pairs in ONE canonical form: addresses strictly rising and below 65536, and no entry equal
to `unlistedByte`, which is what an unlisted address reads as. -/
abbrev Memory := List Host.Cell

/-- The state of the engine: 10_state.md R20 to R35, and two fields of the model's own (`params`, `draws`). -/
structure State where
  /-- A, the high half of AF (R20, R21). -/
  a : Byte
  /-- F, the low half of AF (R20, R27). -/
  f : Flags
  /-- BC (R20). -/
  bc : Word
  /-- DE (R20). -/
  de : Word
  /-- HL (R20). -/
  hl : Word
  /-- The high half of AF' (R20, R23). -/
  aAlt : Byte
  /-- The low half of AF' (R20, R23). -/
  fAlt : Flags
  /-- BC' (R20, R23). -/
  bcAlt : Word
  /-- DE' (R20, R23). -/
  deAlt : Word
  /-- HL' (R20, R23). -/
  hlAlt : Word
  /-- IX (R24). -/
  ix : Word
  /-- IY (R24). -/
  iy : Word
  /-- SP (R25). -/
  sp : Word
  /-- PC (R26). -/
  pc : Word
  /-- IR, inert (R29). -/
  ir : Word
  /-- The interrupt-enable flag (R30). -/
  iff : Bool
  /-- The run state (R31). -/
  run : RunState
  /-- The interrupt request latch `irq_pending` (R32). -/
  irqPending : Bool
  /-- The peripheral registration table (R33). -/
  slots : Vector (Option Device) 16
  /-- Memory (R34). -/
  mem : Memory
  /-- The sticky fault record (R35). -/
  fault : Option FaultRecord
  /-- The open parameters (00_scope.md R6): an argument of the model, which no step changes. -/
  params : Params
  /-- The MODEL's own field, not the spec's: how many `undef1()` draws have been made (log 4). -/
  draws : Nat
deriving DecidableEq, Repr

/-- Why a step stops with a fault. -/
inductive Fault where
  /-- `UnknownInstruction{opcode_bytes, pc}` (60_exceptions.md R411): raised by the step when no row of any table matches the bytes at PC.
  It is the spec's own and only fault: safe. -/
  | unknownInstruction (bytes : List Byte) (pc : Word)
  /-- A step of an engine that is already faulted (10_state.md R35, 93_implementation_defined.md U9 "stuck"): raised by the step when the
  sticky record is set. The spec gives such a step no meaning, so stopping is safe. -/
  | faulted (bytes : List Byte) (pc : Word)
deriving DecidableEq, Repr

/-- Why a step is refused. -/
inductive Refusal where
  /-- The instruction has no meaning in the model; no arm of `exec` answers so. Safe: nothing can be proved of a step that stops. -/
  | notModelled (mnemonic : String)
deriving DecidableEq, Repr

/-- What a meaning answers. -/
abbrev Result := Host.Outcome State Fault Refusal

/-- The machine right after reset: a newly made engine (70_reset_and_hazards.md R442, 10_state.md R36 column "at construction"). -/
def State.reset : State :=
  { a := 0, f := Flags.zero, bc := 0, de := 0, hl := 0
    aAlt := 0, fAlt := Flags.zero, bcAlt := 0, deAlt := 0, hlAlt := 0
    ix := 0, iy := 0, sp := 0, pc := resetPc, ir := 0
    iff := false, run := .running, irqPending := false
    slots := Vector.replicate 16 none
    mem := [], fault := none
    params := resetParams, draws := 0 }

end Sys2Proof.Machine
end

