-- ==== Sys2Proof/Machine/Flags.lean ====
section
/-! DEFINITION. The ALU and flag generator (40_alu_flags.md): pure functions from operands to a result and the six modelled flags,
and the flag byte F as eight bits. -/

namespace Sys2Proof.Machine

/-! ## F as a byte -/

/-- F as a byte: S 7, Z 6, (5), H 4, (3), P/V 2, N 1, C 0 (10_state.md R27). -/
def Flags.toByte (f : Flags) : Byte :=
  BitVec.ofBool f.s ++ BitVec.ofBool f.z ++ BitVec.ofBool f.b5 ++ BitVec.ofBool f.h ++
  BitVec.ofBool f.b3 ++ BitVec.ofBool f.pv ++ BitVec.ofBool f.n ++ BitVec.ofBool f.c

/-- The flag byte whose bits are those of `v` (R27). -/
def Flags.ofByte (v : Byte) : Flags :=
  { s := v.getLsbD 7, z := v.getLsbD 6, b5 := v.getLsbD 5, h := v.getLsbD 4
    b3 := v.getLsbD 3, pv := v.getLsbD 2, n := v.getLsbD 1, c := v.getLsbD 0 }

/-- The status view of the flags: bits 5 and 3 always read as 0 (10_state.md R38). -/
def Flags.view (f : Flags) : Byte := Flags.toByte { f with b5 := false, b3 := false }

/-! ## The six modelled flags -/

/-- The record `(S, Z, H, PV, N, C)` that a function of 40_alu_flags.md returns. -/
structure AluFlags where
  s : Bool
  z : Bool
  h : Bool
  pv : Bool
  n : Bool
  c : Bool
deriving DecidableEq, Repr

/-- The six modelled flags of F, for a rule that leaves some of them as they are (R120). -/
def Flags.six (f : Flags) : AluFlags := ⟨f.s, f.z, f.h, f.pv, f.n, f.c⟩

/-- `F <- flags(S, Z, H, PV, N, C)` with the two unmodelled bits given (R120). -/
def AluFlags.withUnmodelled (fl : AluFlags) (b5 b3 : Bool) : Flags :=
  { s := fl.s, z := fl.z, b5 := b5, h := fl.h, b3 := b3, pv := fl.pv, n := fl.n, c := fl.c }

/-! ## Addition and subtraction -/

/-- `add8(a, b, cin)` (R121). -/
def add8 (a b : Byte) (cin : Bool) : Byte × AluFlags :=
  let sum := a.toNat + b.toNat + cin.toNat
  let r : Byte := BitVec.ofNat 8 sum
  (r, { s := r.msb
        z := r == 0
        h := decide (0x0F < a.toNat % 16 + b.toNat % 16 + cin.toNat)
        pv := a.msb == b.msb && r.msb != a.msb
        n := false
        c := decide (256 ≤ sum) })

/-- The half-carry of a subtraction from that of its inner addition (R122, R124). -/
def subHalf (policy : HalfPolicy) (inner : Bool) : Bool :=
  match policy with
  | .literal => inner
  | .borrow => !inner

/-- `sub8(a, b, cin)` (R122): `add8(a, not8(b), 1 - cin)` with C complemented and N set. -/
def sub8 (policy : HalfPolicy) (a b : Byte) (cin : Bool) : Byte × AluFlags :=
  let (r, fl) := add8 a (~~~b) (!cin)
  (r, { fl with c := !fl.c, n := true, h := subHalf policy fl.h })

/-- `add16(a, b, cin)` (R123). -/
def add16 (a b : Word) (cin : Bool) : Word × AluFlags :=
  let sum := a.toNat + b.toNat + cin.toNat
  let r : Word := BitVec.ofNat 16 sum
  (r, { s := r.msb
        z := r == 0
        h := decide (0x0FFF < a.toNat % 4096 + b.toNat % 4096 + cin.toNat)
        pv := a.msb == b.msb && r.msb != a.msb
        n := false
        c := decide (65536 ≤ sum) })

/-- `sub16(a, b, cin)` (R124). -/
def sub16 (policy : HalfPolicy) (a b : Word) (cin : Bool) : Word × AluFlags :=
  let (r, fl) := add16 a (~~~b) (!cin)
  (r, { fl with c := !fl.c, n := true, h := subHalf policy fl.h })

/-- `addHLflags(a, b)` (R125): plain 16-bit ADD writes H, N and C only; `old` supplies S, Z and P/V. -/
def addHL16 (old : Flags) (a b : Word) : Word × AluFlags :=
  let (r, fl) := add16 a b false
  (r, { old.six with h := fl.h, n := false, c := fl.c })

/-! ## Logic, increment, decrement -/

/-- `logic8(result, set_half_carry)` (R126). -/
def logic8 (r : Byte) (setHalf : Bool) : AluFlags :=
  { s := r.msb, z := r == 0, h := setHalf, pv := parityEven r, n := false, c := false }

/-- The flags of `IN r,(C)`, RRD and RLD (45_ed_extended.md R269, 48_tier2_ed_ddfd.md R341): as `logic8(v, 0)` but C is kept. -/
def parityFlags (v : Byte) (oldC : Bool) : AluFlags := { logic8 v false with c := oldC }

/-- `incFlags8(v, oldC)` (R127). -/
def inc8 (v : Byte) (oldC : Bool) : Byte × AluFlags :=
  let r := v + 1
  (r, { s := r.msb, z := r == 0, h := v.toNat % 16 == 15, pv := v == 0x7F, n := false, c := oldC })

/-- `decFlags8(v, oldC)` (R128); H is the true borrow under either policy. -/
def dec8 (v : Byte) (oldC : Bool) : Byte × AluFlags :=
  let r := v - 1
  (r, { s := r.msb, z := r == 0, h := v.toNat % 16 == 0, pv := v == 0x80, n := true, c := oldC })

/-! ## Rotates and shifts: each gives the result and the ejected bit (R129) -/

/-- `RLC` (R130). -/
def rlc (v : Byte) : Byte × Bool := ((v <<< 1) ||| (v >>> 7), v.getLsbD 7)

/-- `RRC` (R131). -/
def rrc (v : Byte) : Byte × Bool := ((v >>> 1) ||| (v <<< 7), v.getLsbD 0)

/-- `RL` (R132). -/
def rl (v : Byte) (cin : Bool) : Byte × Bool := ((v <<< 1) ||| (BitVec.ofBool cin).zeroExtend 8, v.getLsbD 7)

/-- `RR` (R133). -/
def rr (v : Byte) (cin : Bool) : Byte × Bool := ((v >>> 1) ||| ((BitVec.ofBool cin).zeroExtend 8 <<< 7), v.getLsbD 0)

/-- `SLA` (R134). -/
def sla (v : Byte) : Byte × Bool := (v <<< 1, v.getLsbD 7)

/-- `SRA` (R135). -/
def sra (v : Byte) : Byte × Bool := ((v >>> 1) ||| (v &&& 0x80), v.getLsbD 0)

/-- `SLL` (R136). -/
def sll (v : Byte) : Byte × Bool := ((v <<< 1) ||| 1, v.getLsbD 7)

/-- `SRL` (R137). -/
def srl (v : Byte) : Byte × Bool := (v >>> 1, v.getLsbD 0)

/-- The flags of the eight rotates and shifts of the CB and DDCB/FDCB tables (R129). -/
def rotFlags (r : Byte × Bool) : AluFlags :=
  { s := r.1.msb, z := r.1 == 0, h := false, pv := parityEven r.1, n := false, c := r.2 }

/-- The flags of RLCA, RRCA, RLA and RRA (47_tier2_base.md R320 to R323): H, N and C only. -/
def rotAFlags (old : Flags) (ejected : Bool) : AluFlags := { old.six with h := false, n := false, c := ejected }

/-! ## Bit test, decimal adjust -/

/-- `testBit(v, i, oldF)` (R138): S, P/V and C stay. -/
def testBit (old : Flags) (v : Byte) (i : BitVec 3) : AluFlags :=
  { old.six with z := !v.getLsbD i.toNat, h := true, n := false }

/-- The correction DAA adds or subtracts (47_tier2_base.md R325). -/
def daaCorrection (f : Flags) (a : Byte) : Byte :=
  (if f.h || decide (9 < a.toNat % 16) then 0x06 else 0x00) |||
  (if f.c || decide (0x99 < a.toNat) then 0x60 else 0x00)

/-- The C that DAA leaves (R325): never cleared. -/
def daaCarry (f : Flags) (a : Byte) : Bool := f.c || decide (0x99 < a.toNat)

/-- The A that DAA leaves (R325). -/
def daaResult (f : Flags) (a : Byte) : Byte :=
  if f.n then a - daaCorrection f a else a + daaCorrection f a

/-! ## Block instructions -/

/-- The flags of LDI and LDD (48_tier2_ed_ddfd.md R343), `bc` being the new BC. -/
def blockMoveFlags (old : Flags) (bc : Word) : AluFlags := { old.six with h := false, n := false, pv := bc != 0 }

/-- The flags of CPI and CPD (R347): S, Z, H from the comparison `cmp`, P/V from the new BC, C kept. -/
def blockCompareFlags (old : Flags) (cmp : AluFlags) (bc : Word) : AluFlags :=
  { s := cmp.s, z := cmp.z, h := cmp.h, pv := bc != 0, n := true, c := old.c }

end Sys2Proof.Machine
end

