-- ==== Sys2Proof/Machine/Ops.lean ====
section
/-! DEFINITION. The named operations over memory, stack, ports, flags and PC (20_memory.md, 00_scope.md R12, R13), the interrupt entry and
the return from it, and the one fault (60_exceptions.md). -/

namespace Sys2Proof.Machine

/-! ## Memory as canonical data -/

/-- The byte at address `a`; an unlisted address reads as `unlistedByte`. -/
def memRead : Memory → Nat → Byte
  | [], _ => unlistedByte
  | (k, v) :: m, a => if k = a then v else memRead m a

/-- `m` without any entry for address `a`. -/
def memErase (m : Memory) (a : Nat) : Memory := m.filter (fun cell => cell.1 != a)

/-- `m` with the entry `(a, v)` put before the first larger address. -/
def memInsert : Memory → Nat → Byte → Memory
  | [], a, v => [(a, v)]
  | (k, w) :: m, a, v => if a < k then (a, v) :: (k, w) :: m else (k, w) :: memInsert m a v

/-- Memory with `v` stored at `a`, canonical form kept: storing what an unlisted address reads as removes the entry. -/
def memWrite (m : Memory) (a : Nat) (v : Byte) : Memory :=
  if v = unlistedByte then memErase m a else memInsert (memErase m a) a v

/-- The canonical form: addresses strictly rising and below 65536, no entry equal to `unlistedByte`. -/
def memWf : Memory → Bool
  | [] => true
  | (k, v) :: m => decide (k < 65536) && v != unlistedByte && m.all (fun cell => decide (k < cell.1)) && memWf m

/-! ## Memory accesses (20_memory.md R51 to R53) -/

/-- `MemRead(a, 1)` (R51). -/
def read8 (s : State) (a : Word) : Byte := memRead s.mem a.toNat

/-- `MemWrite(a, 1, v)` (R51). -/
def write8 (a : Word) (v : Byte) (s : State) : State := { s with mem := memWrite s.mem a.toNat v }

/-- `MemRead(a, 2)` (R52): little-endian, the second address wraps. -/
def read16 (s : State) (a : Word) : Word := join (read8 s (a + 1)) (read8 s a)

/-- `MemWrite(a, 2, v)` (R53): the low byte to `a`, then the high byte to `a + 1`. -/
def write16 (a v : Word) (s : State) : State := write8 (a + 1) (hi8 v) (write8 a (lo8 v) s)

/-! ## PC and the stack (20_memory.md R66) -/

/-- `PC <- target` (00_scope.md R13). -/
def jump (target : Word) (s : State) : State := { s with pc := target }

/-- `PC <- (PC + sext_16(e)) mod 65536` (30_encoding.md R101). -/
def jumpRel (e : Byte) (s : State) : State := { s with pc := s.pc + sext16 e }

/-- `Push16(v)` (R66): SP down by one, high byte, SP down by one, low byte. -/
def push16 (v : Word) (s : State) : State :=
  let s1 := write8 (s.sp - 1) (hi8 v) { s with sp := s.sp - 1 }
  write8 (s1.sp - 1) (lo8 v) { s1 with sp := s1.sp - 1 }

/-- The value `Pop16()` returns (R66): low byte from SP, high byte from SP + 1. -/
def popped (s : State) : Word := read16 s s.sp

/-- What `Pop16()` leaves: SP + 2, Memory unchanged (R66). -/
def dropTop (s : State) : State := { s with sp := s.sp + 2 }

/-- `Push16(PC); PC <- target`: CALL, RST (43_base_control_io_system.md R219, R223). -/
def call (target : Word) (s : State) : State := jump target (push16 s.pc s)

/-- `PC <- Pop16()`: RET, which is also the return from the interrupt handler; IFF is not touched (R221, 60_exceptions.md R419). -/
def returnTo (s : State) : State := jump (popped s) (dropTop s)

/-- `PC <- pc0` of a repeating block instruction: its two bytes are fetched again by the next step (48_tier2_ed_ddfd.md section 2, D29). -/
def repeatBlock (s : State) : State := { s with pc := s.pc - 2 }

/-! ## F -/

/-- `F <- flags(fl)` (40_alu_flags.md R120): the six flags as given, bits 5 and 3 two fresh `undef1()` draws. -/
def writeF (fl : AluFlags) (s : State) : State :=
  { s with f := fl.withUnmodelled (Config.undef1 s.draws) (Config.undef1 (s.draws + 1)), draws := s.draws + 2 }

/-- The k-th of the next `undef1()` draws, and the state after `n` draws (00_scope.md R13). -/
def drawn (s : State) (k : Nat) : Bool := Config.undef1 (s.draws + k)

/-- The state after `n` draws. -/
def skipDraws (n : Nat) (s : State) : State := { s with draws := s.draws + n }

/-! ## Ports (20_memory.md R57 to R60) -/

/-- `slot = port[7:4]` (R57). -/
def slotOf (port : Byte) : Fin 16 := (port.extractLsb' 4 4).toFin

/-- `sub = port[3:0]` (R57). -/
def subOf (port : Byte) : BitVec 4 := port.extractLsb' 0 4

/-- The device bound to the slot of a port, if any (R58). -/
def deviceAt (s : State) (port : Byte) : Option Device := s.slots.get (slotOf port)

/-- The answer of a device to `read(sub)` (R60): the next one of its script, else a free value. -/
def readAnswer (slot : Fin 16) (d : Device) (sub : BitVec 4) : Answer :=
  match d.script with
  | ans :: _ => ans
  | [] => Config.deviceRead (BitVec.ofFin slot) d.calls sub

/-- Whether a device sets the request latch when it is called with `write(sub, value)` (R60). -/
def writeRaises (slot : Fin 16) (d : Device) (sub : BitVec 4) (v : Byte) : Bool :=
  match d.script with
  | ans :: _ => ans.raisesIrq
  | [] => Config.deviceWriteRaises (BitVec.ofFin slot) d.calls sub v

/-- The device after one call. -/
def afterCall (d : Device) (call : DeviceCall) : Device := { script := d.script.tail, calls := call :: d.calls }

/-- The byte `ioRead(port)` returns (R58): the device's answer, or 0 where no device is bound. -/
def portIn (s : State) (port : Byte) : Byte :=
  match deviceAt s port with
  | some d => (readAnswer (slotOf port) d (subOf port)).byte
  | none => 0

/-- What `ioRead(port)` leaves (R58, R60): the device has had one more call and may have set the latch. -/
def afterPortIn (port : Byte) (s : State) : State :=
  match deviceAt s port with
  | some d =>
    let ans := readAnswer (slotOf port) d (subOf port)
    { s with
        slots := s.slots.set (slotOf port) (some (afterCall d (.read (subOf port) ans.byte))) (slotOf port).isLt
        irqPending := s.irqPending || ans.raisesIrq }
  | none => s

/-- `ioWrite(port, v)` (R59, R60): one `write(sub, v)` on the bound device, or nothing. -/
def portOut (port v : Byte) (s : State) : State :=
  match deviceAt s port with
  | some d =>
    { s with
        slots := s.slots.set (slotOf port) (some (afterCall d (.write (subOf port) v))) (slotOf port).isLt
        irqPending := s.irqPending || writeRaises (slotOf port) d (subOf port) v }
  | none => s

/-! ## The interrupt and the fault (60_exceptions.md) -/

/-- The acceptance test: a request is pending and IFF is set (R416). -/
def interruptDue (s : State) : Bool := s.irqPending && s.iff

/-- TAKING THE INTERRUPT (R417): consume the request, push PC, go to 0x0038, clear HALTED, and clear IFF only under the parameter. -/
def takeInterrupt (s : State) : State :=
  let s1 := push16 s.pc { s with irqPending := false }
  { s1 with
      pc := interruptVector
      run := .running
      iff := if s1.params.irqEntryClearsIff then false else s1.iff }

/-- `raise UnknownInstruction(bytes, pc)` (R411). -/
def raiseUnknown (bytes : List Byte) (pc : Word) : Result := .fault (.unknownInstruction bytes pc)

end Sys2Proof.Machine
end

