-- ==== Sys2Proof/Machine/Operands.lean ====
section
/-! DEFINITION. The operand forms: registers and their halves, pairs, the index register, the effective address, conditions
(10_state.md R20 to R24, 30_encoding.md R92 to R97, 46_ddfd_indexed.md R281). -/

namespace Sys2Proof.Machine

/-! ## 8-bit registers (R21, R22) -/

/-- `r[k]`: an 8-bit register, a half of its pair. -/
def reg8 (s : State) : Reg8 → Byte
  | .b => hi8 s.bc
  | .c => lo8 s.bc
  | .d => hi8 s.de
  | .e => lo8 s.de
  | .h => hi8 s.hl
  | .l => lo8 s.hl
  | .a => s.a

/-- `r[k] <- v`: the other half of the pair stays. -/
def setReg8 (r : Reg8) (v : Byte) (s : State) : State :=
  match r with
  | .b => { s with bc := join v (lo8 s.bc) }
  | .c => { s with bc := join (hi8 s.bc) v }
  | .d => { s with de := join v (lo8 s.de) }
  | .e => { s with de := join (hi8 s.de) v }
  | .h => { s with hl := join v (lo8 s.hl) }
  | .l => { s with hl := join (hi8 s.hl) v }
  | .a => { s with a := v }

/-! ## 16-bit registers (R20, R93) -/

/-- AF as a word. -/
def af (s : State) : Word := join s.a s.f.toByte

/-- AF' as a word. -/
def afAlt (s : State) : Word := join s.aAlt s.fAlt.toByte

/-- `AF <- v`: A and all eight bits of F. -/
def setAf (v : Word) (s : State) : State := { s with a := hi8 v, f := Flags.ofByte (lo8 v) }

/-- `dd[k]`: column `dd`/`ss` of R93. -/
def pair (s : State) : Pair → Word
  | .bc => s.bc
  | .de => s.de
  | .hl => s.hl
  | .sp => s.sp

/-- `dd[k] <- v`. -/
def setPair (p : Pair) (v : Word) (s : State) : State :=
  match p with
  | .bc => { s with bc := v }
  | .de => { s with de := v }
  | .hl => { s with hl := v }
  | .sp => { s with sp := v }

/-- `qq[k]`: column `qq` of R93. -/
def stackPair (s : State) : StackPair → Word
  | .bc => s.bc
  | .de => s.de
  | .hl => s.hl
  | .af => af s

/-- `qq[k] <- v`. -/
def setStackPair (q : StackPair) (v : Word) (s : State) : State :=
  match q with
  | .bc => { s with bc := v }
  | .de => { s with de := v }
  | .hl => { s with hl := v }
  | .af => setAf v s

/-- XY (R97). -/
def index (s : State) : Index → Word
  | .ix => s.ix
  | .iy => s.iy

/-- `XY <- v`. -/
def setIndex (x : Index) (v : Word) (s : State) : State :=
  match x with
  | .ix => { s with ix := v }
  | .iy => { s with iy := v }

/-- `pp[k]`: column `pp` of R93, `xy` being the index register itself. -/
def indexPair (s : State) (x : Index) : IndexPair → Word
  | .bc => s.bc
  | .de => s.de
  | .xy => index s x
  | .sp => s.sp

/-- `EA(d) = (XY + sext_16(d)) mod 65536` (46_ddfd_indexed.md R281). -/
def effAddr (s : State) (x : Index) (d : Byte) : Word := index s x + sext16 d

/-! ## Conditions (40_alu_flags.md R140) -/

/-- `cond(c)` on the flags `f`. -/
def condHolds (f : Flags) : Cond → Bool
  | .nz => !f.z
  | .z => f.z
  | .nc => !f.c
  | .c => f.c
  | .po => !f.pv
  | .pe => f.pv
  | .p => !f.s
  | .m => f.s

/-- `cond(c)` for the four conditions of JR. -/
def relCondHolds (f : Flags) : RelCond → Bool
  | .nz => !f.z
  | .z => f.z
  | .nc => !f.c
  | .c => f.c

end Sys2Proof.Machine
end

