-- ==== Sys2Proof/Machine/Alu.lean ====
section
/-! DEFINITION. The state changes that several instructions share: the eight accumulator operations, increment and decrement, rotates,
bit operations, exchanges and the steps of the block instructions. Each meaning in the family files is one of these on its operand. -/

namespace Sys2Proof.Machine

/-! ## The eight accumulator operations (42_base_arith_logic.md R211) -/

/-- `A <- r; F <- flags(fl)`. -/
def setAcc (r : Byte × AluFlags) (s : State) : State := writeF r.2 { s with a := r.1 }

/-- ADD. -/
def accAdd (x : Byte) (s : State) : State := setAcc (add8 s.a x false) s

/-- ADC: the carry-in is F.C. -/
def accAdc (x : Byte) (s : State) : State := setAcc (add8 s.a x s.f.c) s

/-- SUB. -/
def accSub (x : Byte) (s : State) : State := setAcc (sub8 s.params.subHalf s.a x false) s

/-- SBC: the borrow-in is F.C. -/
def accSbc (x : Byte) (s : State) : State := setAcc (sub8 s.params.subHalf s.a x s.f.c) s

/-- AND. -/
def accAnd (x : Byte) (s : State) : State := setAcc (s.a &&& x, logic8 (s.a &&& x) true) s

/-- XOR. -/
def accXor (x : Byte) (s : State) : State := setAcc (s.a ^^^ x, logic8 (s.a ^^^ x) false) s

/-- OR. -/
def accOr (x : Byte) (s : State) : State := setAcc (s.a ||| x, logic8 (s.a ||| x) false) s

/-- CP: the flags of SUB; A is not written. -/
def accCp (x : Byte) (s : State) : State := writeF (sub8 s.params.subHalf s.a x false).2 s

/-! ## Increment and decrement (R204 to R209) -/

/-- INC on a register. -/
def incReg (r : Reg8) (s : State) : State :=
  let res := inc8 (reg8 s r) s.f.c
  writeF res.2 (setReg8 r res.1 s)

/-- DEC on a register. -/
def decReg (r : Reg8) (s : State) : State :=
  let res := dec8 (reg8 s r) s.f.c
  writeF res.2 (setReg8 r res.1 s)

/-- INC on the byte at an address. -/
def incMem (a : Word) (s : State) : State :=
  let res := inc8 (read8 s a) s.f.c
  writeF res.2 (write8 a res.1 s)

/-- DEC on the byte at an address. -/
def decMem (a : Word) (s : State) : State :=
  let res := dec8 (read8 s a) s.f.c
  writeF res.2 (write8 a res.1 s)

/-! ## Rotates and shifts (40_alu_flags.md R129) -/

/-- A rotate or shift `f` on a register, with the flags of R129. -/
def rotReg (f : Byte → Byte × Bool) (r : Reg8) (s : State) : State :=
  writeF (rotFlags (f (reg8 s r))) (setReg8 r (f (reg8 s r)).1 s)

/-- A rotate or shift `f` on the byte at an address, with the flags of R129. -/
def rotMem (f : Byte → Byte × Bool) (a : Word) (s : State) : State :=
  writeF (rotFlags (f (read8 s a))) (write8 a (f (read8 s a)).1 s)

/-- A rotate of A with the flags of RLCA, RRCA, RLA and RRA (47_tier2_base.md section 3). -/
def rotAcc (f : Byte → Byte × Bool) (s : State) : State :=
  writeF (rotAFlags s.f (f s.a).2) { s with a := (f s.a).1 }

/-! ## Bit test, reset, set (40_alu_flags.md R138, R142) -/

/-- BIT b on a byte: flags only. -/
def bitTest (v : Byte) (b : BitVec 3) (s : State) : State := writeF (testBit s.f v b) s

/-! ## 16-bit arithmetic -/

/-- `HL <- r; F <- flags(fl)`. -/
def setHl16 (r : Word × AluFlags) (s : State) : State := writeF r.2 { s with hl := r.1 }

/-! ## Exchanges (41_base_load_exchange_stack.md R159 to R162) -/

/-- `t <- MemRead(SP, 2); MemWrite(SP, 2, v); ` what is left of the exchange is to put `t` where `v` came from. -/
def exchangeTop (v : Word) (s : State) : State := write16 s.sp v s

/-! ## Block instructions (48_tier2_ed_ddfd.md sections 2 to 4) -/

/-- LDI and LDD: copy one byte, move HL and DE by `delta`, count BC down (R343, R344). -/
def blockMove (delta : Word) (s : State) : State :=
  let s1 := write8 s.de (read8 s s.hl) s
  writeF (blockMoveFlags s.f (s.bc - 1)) { s1 with hl := s.hl + delta, de := s.de + delta, bc := s.bc - 1 }

/-- The comparison of CPI and CPD: `sub8(A, v, 0)` with v the byte at HL (R347). -/
def blockComparison (s : State) : Byte × AluFlags := sub8 s.params.subHalf s.a (read8 s s.hl) false

/-- CPI and CPD: compare, move HL by `delta`, count BC down (R347, R348). -/
def blockCompare (delta : Word) (s : State) : State :=
  writeF (blockCompareFlags s.f (blockComparison s).2 (s.bc - 1)) { s with hl := s.hl + delta, bc := s.bc - 1 }

/-- The flags of the eight block I/O instructions (R351, D38): Z from the new B, N = 1, C kept, S, H and P/V three draws. -/
def blockIoFlags (s : State) : State :=
  writeF { s := drawn s 0, z := reg8 s .b == 0, h := drawn s 1, pv := drawn s 2, n := true, c := s.f.c } (skipDraws 3 s)

/-- INI and IND: one port read to the byte at HL, move HL by `delta`, count B down (R351, R352). -/
def blockIn (delta : Word) (s : State) : State :=
  let port := reg8 s .c
  let s1 := write8 s.hl (portIn s port) (afterPortIn port s)
  blockIoFlags (setReg8 .b (reg8 s .b - 1) { s1 with hl := s.hl + delta })

/-- OUTI and OUTD: the byte at HL to the port, move HL by `delta`, count B down before the write (R355, R356). -/
def blockOut (delta : Word) (s : State) : State :=
  let s1 := setReg8 .b (reg8 s .b - 1) s
  let s2 := portOut (reg8 s1 .c) (read8 s s.hl) s1
  blockIoFlags { s2 with hl := s.hl + delta }

/-- A repeating block instruction: one iteration has been done, and the instruction repeats when `more` (section 2, D29). -/
def repeatIf (more : Bool) (s : State) : State := if more then repeatBlock s else s

end Sys2Proof.Machine
end

