-- ==== Sys2Proof/Machine/Arith.lean ====
section
/-! DEFINITION. The meanings of 42_base_arith_logic.md: 8-bit and 16-bit arithmetic and logic of the base table. -/

namespace Sys2Proof.Machine

/-! ## The eight accumulator operations -/

/-- `ADD A,r` (R180). -/
def execAddAR (r : Reg8) (s : State) : Result := .next (accAdd (reg8 s r) s)

/-- `ADD A,(HL)` (R181). -/
def execAddAHL (s : State) : Result := .next (accAdd (read8 s s.hl) s)

/-- `ADD A,n` (R182). -/
def execAddAN (n : Byte) (s : State) : Result := .next (accAdd n s)

/-- `ADC A,r` (R183). -/
def execAdcAR (r : Reg8) (s : State) : Result := .next (accAdc (reg8 s r) s)

/-- `ADC A,(HL)` (R184). -/
def execAdcAHL (s : State) : Result := .next (accAdc (read8 s s.hl) s)

/-- `ADC A,n` (R185). -/
def execAdcAN (n : Byte) (s : State) : Result := .next (accAdc n s)

/-- `SUB A,r` (R186). -/
def execSubAR (r : Reg8) (s : State) : Result := .next (accSub (reg8 s r) s)

/-- `SUB A,(HL)` (R187). -/
def execSubAHL (s : State) : Result := .next (accSub (read8 s s.hl) s)

/-- `SUB A,n` (R188). -/
def execSubAN (n : Byte) (s : State) : Result := .next (accSub n s)

/-- `SBC A,r` (R189). -/
def execSbcAR (r : Reg8) (s : State) : Result := .next (accSbc (reg8 s r) s)

/-- `SBC A,(HL)` (R190). -/
def execSbcAHL (s : State) : Result := .next (accSbc (read8 s s.hl) s)

/-- `SBC A,n` (R191). -/
def execSbcAN (n : Byte) (s : State) : Result := .next (accSbc n s)

/-- `AND A,r` (R192). -/
def execAndAR (r : Reg8) (s : State) : Result := .next (accAnd (reg8 s r) s)

/-- `AND A,(HL)` (R193). -/
def execAndAHL (s : State) : Result := .next (accAnd (read8 s s.hl) s)

/-- `AND A,n` (R194). -/
def execAndAN (n : Byte) (s : State) : Result := .next (accAnd n s)

/-- `XOR A,r` (R195). -/
def execXorAR (r : Reg8) (s : State) : Result := .next (accXor (reg8 s r) s)

/-- `XOR A,(HL)` (R196). -/
def execXorAHL (s : State) : Result := .next (accXor (read8 s s.hl) s)

/-- `XOR A,n` (R197). -/
def execXorAN (n : Byte) (s : State) : Result := .next (accXor n s)

/-- `OR A,r` (R198). -/
def execOrAR (r : Reg8) (s : State) : Result := .next (accOr (reg8 s r) s)

/-- `OR A,(HL)` (R199). -/
def execOrAHL (s : State) : Result := .next (accOr (read8 s s.hl) s)

/-- `OR A,n` (R200). -/
def execOrAN (n : Byte) (s : State) : Result := .next (accOr n s)

/-- `CP A,r` (R201). -/
def execCpAR (r : Reg8) (s : State) : Result := .next (accCp (reg8 s r) s)

/-- `CP A,(HL)` (R202). -/
def execCpAHL (s : State) : Result := .next (accCp (read8 s s.hl) s)

/-- `CP A,n` (R203). -/
def execCpAN (n : Byte) (s : State) : Result := .next (accCp n s)

/-! ## 8-bit increment and decrement -/

/-- `INC r` (R204). -/
def execIncR (r : Reg8) (s : State) : Result := .next (incReg r s)

/-- `INC (HL)` (R205). -/
def execIncHL (s : State) : Result := .next (incMem s.hl s)

/-- `DEC r` (R206). -/
def execDecR (r : Reg8) (s : State) : Result := .next (decReg r s)

/-- `DEC (HL)` (R207). -/
def execDecHL (s : State) : Result := .next (decMem s.hl s)

/-! ## 16-bit increment, decrement, add -/

/-- `INC ss` (R208): no flag. -/
def execIncSS (p : Pair) (s : State) : Result := .next (setPair p (pair s p + 1) s)

/-- `DEC ss` (R209): no flag. -/
def execDecSS (p : Pair) (s : State) : Result := .next (setPair p (pair s p - 1) s)

/-- `ADD HL,ss` (R210). -/
def execAddHLSS (p : Pair) (s : State) : Result := .next (setHl16 (addHL16 s.f s.hl (pair s p)) s)

end Sys2Proof.Machine
end

