-- ==== Sys2Proof/Machine/Control.lean ====
section
/-! DEFINITION. The meanings of 43_base_control_io_system.md: jumps, calls, returns, restarts, port I/O, EI, DI, HALT. None writes F. -/

namespace Sys2Proof.Machine

/-! ## Jumps -/

/-- `JP nn` (R215). -/
def execJpNN (nn : Word) (s : State) : Result := .next (jump nn s)

/-- `JP cc,nn` (R216). -/
def execJpCcNN (cc : Cond) (nn : Word) (s : State) : Result := .next (if condHolds s.f cc then jump nn s else s)

/-- `JR e` (R217). -/
def execJrE (e : Byte) (s : State) : Result := .next (jumpRel e s)

/-- `JR cc,e` (R218). -/
def execJrCcE (cc : RelCond) (e : Byte) (s : State) : Result := .next (if relCondHolds s.f cc then jumpRel e s else s)

/-! ## Calls, returns, restarts -/

/-- `CALL nn` (R219). -/
def execCallNN (nn : Word) (s : State) : Result := .next (call nn s)

/-- `CALL cc,nn` (R220): nothing is pushed when the condition is false. -/
def execCallCcNN (cc : Cond) (nn : Word) (s : State) : Result := .next (if condHolds s.f cc then call nn s else s)

/-- `RET` (R221). -/
def execRet (s : State) : Result := .next (returnTo s)

/-- `RET cc` (R222). -/
def execRetCc (cc : Cond) (s : State) : Result := .next (if condHolds s.f cc then returnTo s else s)

/-- `RST p`, p = 8 * t (R223, R96). -/
def execRst (t : BitVec 3) (s : State) : Result := .next (call (BitVec.ofNat 16 (8 * t.toNat)) s)

/-! ## Port I/O -/

/-- `IN A,(n)` (R224): no flag. -/
def execInAN (n : Byte) (s : State) : Result := .next ({ afterPortIn n s with a := portIn s n })

/-- `OUT (n),A` (R225). -/
def execOutNA (n : Byte) (s : State) : Result := .next (portOut n s.a s)

/-! ## Interrupt enable, halt -/

/-- `EI` (R226): at once. -/
def execEi (s : State) : Result := .next ({ s with iff := true })

/-- `DI` (R227). -/
def execDi (s : State) : Result := .next ({ s with iff := false })

/-- `HALT` (R228): PC stays past it. -/
def execHalt (s : State) : Result := .next ({ s with run := .halted })

end Sys2Proof.Machine
end

