-- ==== Sys2Proof/Machine/Extended.lean ====
section
/-! DEFINITION. The meanings of 45_ed_extended.md: 16-bit ADC and SBC, 16-bit memory loads, port I/O through C. -/

namespace Sys2Proof.Machine

/-- `ADC HL,ss` (R265). -/
def execAdcHLSS (p : Pair) (s : State) : Result := .next (setHl16 (add16 s.hl (pair s p) s.f.c) s)

/-- `SBC HL,ss` (R266). -/
def execSbcHLSS (p : Pair) (s : State) : Result := .next (setHl16 (sub16 s.params.subHalf s.hl (pair s p) s.f.c) s)

/-- `LD (nn),dd` (R267). -/
def execLdMemDd (nn : Word) (p : Pair) (s : State) : Result := .next (write16 nn (pair s p) s)

/-- `LD dd,(nn)` (R268). -/
def execLdDdMem (p : Pair) (nn : Word) (s : State) : Result := .next (setPair p (read16 s nn) s)

/-- `IN r,(C)` (R269): the port is the old C; C flag kept. -/
def execInRC (r : Reg8) (s : State) : Result :=
  let x := portIn s (reg8 s .c)
  .next (writeF (parityFlags x s.f.c) (setReg8 r x (afterPortIn (reg8 s .c) s)))

/-- `OUT (C),r` (R270). -/
def execOutCR (r : Reg8) (s : State) : Result := .next (portOut (reg8 s .c) (reg8 s r) s)

end Sys2Proof.Machine
end

