-- ==== Sys2Proof/Machine/Indexed.lean ====
section
/-! DEFINITION. The meanings of 46_ddfd_indexed.md: the tier-1 rows of the DD/FD table and the DDCB/FDCB table; each definition stands for IX and IY. -/

namespace Sys2Proof.Machine

/-! ## Arithmetic on the index register -/

/-- `ADD IX,pp` (R282). -/
def execAddXY (x : Index) (p : IndexPair) (s : State) : Result :=
  let res := addHL16 s.f (index s x) (indexPair s x p)
  .next (writeF res.2 (setIndex x res.1 s))

/-- `INC IX` (R283): no flag. -/
def execIncXY (x : Index) (s : State) : Result := .next (setIndex x (index s x + 1) s)

/-- `DEC IX` (R284): no flag. -/
def execDecXY (x : Index) (s : State) : Result := .next (setIndex x (index s x - 1) s)

/-! ## Loads -/

/-- `LD IX,nn` (R285). -/
def execLdXYNN (x : Index) (nn : Word) (s : State) : Result := .next (setIndex x nn s)

/-- `LD r,(IX+d)` (R286): H and L are the real H and L (R280). -/
def execLdRXYd (x : Index) (r : Reg8) (d : Byte) (s : State) : Result := .next (setReg8 r (read8 s (effAddr s x d)) s)

/-- `LD (IX+d),r` (R287). -/
def execLdXYdR (x : Index) (d : Byte) (r : Reg8) (s : State) : Result := .next (write8 (effAddr s x d) (reg8 s r) s)

/-! ## Accumulator arithmetic and logic -/

/-- `ADD A,(IX+d)` (R288). -/
def execAddAXYd (x : Index) (d : Byte) (s : State) : Result := .next (accAdd (read8 s (effAddr s x d)) s)

/-- `SUB A,(IX+d)` (R289). -/
def execSubAXYd (x : Index) (d : Byte) (s : State) : Result := .next (accSub (read8 s (effAddr s x d)) s)

/-- `AND A,(IX+d)` (R290). -/
def execAndAXYd (x : Index) (d : Byte) (s : State) : Result := .next (accAnd (read8 s (effAddr s x d)) s)

/-- `XOR A,(IX+d)` (R291). -/
def execXorAXYd (x : Index) (d : Byte) (s : State) : Result := .next (accXor (read8 s (effAddr s x d)) s)

/-- `OR A,(IX+d)` (R292). -/
def execOrAXYd (x : Index) (d : Byte) (s : State) : Result := .next (accOr (read8 s (effAddr s x d)) s)

/-- `CP A,(IX+d)` (R293). -/
def execCpAXYd (x : Index) (d : Byte) (s : State) : Result := .next (accCp (read8 s (effAddr s x d)) s)

/-! ## The nested DDCB/FDCB table -/

/-- `RLC (IX+d)` (R294). -/
def execRlcXYd (x : Index) (d : Byte) (s : State) : Result := .next (rotMem rlc (effAddr s x d) s)

/-- `RRC (IX+d)` (R295). -/
def execRrcXYd (x : Index) (d : Byte) (s : State) : Result := .next (rotMem rrc (effAddr s x d) s)

/-- `RL (IX+d)` (R296). -/
def execRlXYd (x : Index) (d : Byte) (s : State) : Result := .next (rotMem (rl · s.f.c) (effAddr s x d) s)

/-- `RR (IX+d)` (R297). -/
def execRrXYd (x : Index) (d : Byte) (s : State) : Result := .next (rotMem (rr · s.f.c) (effAddr s x d) s)

/-- `SLA (IX+d)` (R298). -/
def execSlaXYd (x : Index) (d : Byte) (s : State) : Result := .next (rotMem sla (effAddr s x d) s)

/-- `SRA (IX+d)` (R299). -/
def execSraXYd (x : Index) (d : Byte) (s : State) : Result := .next (rotMem sra (effAddr s x d) s)

/-- `SLL (IX+d)` (R300). -/
def execSllXYd (x : Index) (d : Byte) (s : State) : Result := .next (rotMem sll (effAddr s x d) s)

/-- `SRL (IX+d)` (R301). -/
def execSrlXYd (x : Index) (d : Byte) (s : State) : Result := .next (rotMem srl (effAddr s x d) s)

/-- `BIT b,(IX+d)` (R302). -/
def execBitXYd (x : Index) (b : BitVec 3) (d : Byte) (s : State) : Result := .next (bitTest (read8 s (effAddr s x d)) b s)

/-- `RES b,(IX+d)` (R303). -/
def execResXYd (x : Index) (b : BitVec 3) (d : Byte) (s : State) : Result := .next (write8 (effAddr s x d) (resBit (read8 s (effAddr s x d)) b) s)

/-- `SET b,(IX+d)` (R304). -/
def execSetXYd (x : Index) (b : BitVec 3) (d : Byte) (s : State) : Result := .next (write8 (effAddr s x d) (setBit (read8 s (effAddr s x d)) b) s)

end Sys2Proof.Machine
end

