-- ==== Sys2Proof/Machine/Load.lean ====
section
/-! DEFINITION. The meanings of 41_base_load_exchange_stack.md: loads, stack, exchanges. None writes F but POP AF and EX AF,AF'. -/

namespace Sys2Proof.Machine

/-! ## 8-bit loads -/

/-- `LD r,r'` (R150). -/
def execLdRR (dst src : Reg8) (s : State) : Result := .next (setReg8 dst (reg8 s src) s)

/-- `LD r,(HL)` (R151). -/
def execLdRHL (r : Reg8) (s : State) : Result := .next (setReg8 r (read8 s s.hl) s)

/-- `LD (HL),r` (R152). -/
def execLdHLR (r : Reg8) (s : State) : Result := .next (write8 s.hl (reg8 s r) s)

/-- `LD r,n` (R153). -/
def execLdRN (r : Reg8) (n : Byte) (s : State) : Result := .next (setReg8 r n s)

/-- `LD (HL),n` (R154). -/
def execLdHLN (n : Byte) (s : State) : Result := .next (write8 s.hl n s)

/-! ## 16-bit loads -/

/-- `LD dd,nn` (R155). -/
def execLdDdNN (p : Pair) (nn : Word) (s : State) : Result := .next (setPair p nn s)

/-- `LD SP,HL` (R156). -/
def execLdSPHL (s : State) : Result := .next ({ s with sp := s.hl })

/-! ## Stack -/

/-- `PUSH qq` (R157). -/
def execPush (q : StackPair) (s : State) : Result := .next (push16 (stackPair s q) s)

/-- `POP qq` (R158). -/
def execPop (q : StackPair) (s : State) : Result := .next (setStackPair q (popped s) (dropTop s))

/-! ## Exchanges -/

/-- `EX DE,HL` (R159). -/
def execExDEHL (s : State) : Result := .next ({ s with de := s.hl, hl := s.de })

/-- `EX AF,AF'` (R160): all sixteen bits. -/
def execExAFAF (s : State) : Result := .next ({ s with a := s.aAlt, f := s.fAlt, aAlt := s.a, fAlt := s.f })

/-- `EXX` (R161). -/
def execExx (s : State) : Result :=
  .next { s with
    bc := s.bcAlt, de := s.deAlt, hl := s.hlAlt
    bcAlt := s.bc, deAlt := s.de, hlAlt := s.hl }

/-- `EX (SP),HL` (R162). -/
def execExSPHL (s : State) : Result := .next ({ exchangeTop s.hl s with hl := popped s })

end Sys2Proof.Machine
end

