-- ==== Sys2Proof/Machine/RotateBit.lean ====
section
/-! DEFINITION. The meanings of 44_cb_rotate_bit.md: rotates, shifts, BIT, RES, SET on registers and (HL). -/

namespace Sys2Proof.Machine

/-! ## Rotates and shifts -/

/-- `RLC r` (R240). -/
def execRlcR (r : Reg8) (s : State) : Result := .next (rotReg rlc r s)

/-- `RLC (HL)` (R241). -/
def execRlcHL (s : State) : Result := .next (rotMem rlc s.hl s)

/-- `RRC r` (R242). -/
def execRrcR (r : Reg8) (s : State) : Result := .next (rotReg rrc r s)

/-- `RRC (HL)` (R243). -/
def execRrcHL (s : State) : Result := .next (rotMem rrc s.hl s)

/-- `RL r` (R244). -/
def execRlR (r : Reg8) (s : State) : Result := .next (rotReg (rl · s.f.c) r s)

/-- `RL (HL)` (R245). -/
def execRlHL (s : State) : Result := .next (rotMem (rl · s.f.c) s.hl s)

/-- `RR r` (R246). -/
def execRrR (r : Reg8) (s : State) : Result := .next (rotReg (rr · s.f.c) r s)

/-- `RR (HL)` (R247). -/
def execRrHL (s : State) : Result := .next (rotMem (rr · s.f.c) s.hl s)

/-- `SLA r` (R248). -/
def execSlaR (r : Reg8) (s : State) : Result := .next (rotReg sla r s)

/-- `SLA (HL)` (R249). -/
def execSlaHL (s : State) : Result := .next (rotMem sla s.hl s)

/-- `SRA r` (R250). -/
def execSraR (r : Reg8) (s : State) : Result := .next (rotReg sra r s)

/-- `SRA (HL)` (R251). -/
def execSraHL (s : State) : Result := .next (rotMem sra s.hl s)

/-- `SLL r` (R252). -/
def execSllR (r : Reg8) (s : State) : Result := .next (rotReg sll r s)

/-- `SLL (HL)` (R253). -/
def execSllHL (s : State) : Result := .next (rotMem sll s.hl s)

/-- `SRL r` (R254). -/
def execSrlR (r : Reg8) (s : State) : Result := .next (rotReg srl r s)

/-- `SRL (HL)` (R255). -/
def execSrlHL (s : State) : Result := .next (rotMem srl s.hl s)

/-! ## Bit test -/

/-- `BIT b,r` (R256). -/
def execBitR (b : BitVec 3) (r : Reg8) (s : State) : Result := .next (bitTest (reg8 s r) b s)

/-- `BIT b,(HL)` (R257). -/
def execBitHL (b : BitVec 3) (s : State) : Result := .next (bitTest (read8 s s.hl) b s)

/-! ## Bit reset and set -/

/-- `RES b,r` (R258). -/
def execResR (b : BitVec 3) (r : Reg8) (s : State) : Result := .next (setReg8 r (resBit (reg8 s r) b) s)

/-- `RES b,(HL)` (R259). -/
def execResHL (b : BitVec 3) (s : State) : Result := .next (write8 s.hl (resBit (read8 s s.hl) b) s)

/-- `SET b,r` (R260). -/
def execSetR (b : BitVec 3) (r : Reg8) (s : State) : Result := .next (setReg8 r (setBit (reg8 s r) b) s)

/-- `SET b,(HL)` (R261). -/
def execSetHL (b : BitVec 3) (s : State) : Result := .next (write8 s.hl (setBit (read8 s s.hl) b) s)

end Sys2Proof.Machine
end

