-- ==== Sys2Proof/Machine/Tier2Base.lean ====
section
/-! DEFINITION. The meanings of 47_tier2_base.md: the tier-2 rows of the base table. Whether a row is in its table is the decoder's gate (R106). -/

namespace Sys2Proof.Machine

/-- `NOP` (R311). -/
def execNop (s : State) : Result := .next s

/-- `LD (BC),A` (R312). -/
def execLdBCA (s : State) : Result := .next (write8 s.bc s.a s)

/-- `LD A,(BC)` (R313). -/
def execLdABC (s : State) : Result := .next ({ s with a := read8 s s.bc })

/-- `LD (DE),A` (R314). -/
def execLdDEA (s : State) : Result := .next (write8 s.de s.a s)

/-- `LD A,(DE)` (R315). -/
def execLdADE (s : State) : Result := .next ({ s with a := read8 s s.de })

/-- `LD (nn),HL` (R316). -/
def execLdMemHL (nn : Word) (s : State) : Result := .next (write16 nn s.hl s)

/-- `LD HL,(nn)` (R317). -/
def execLdHLMem (nn : Word) (s : State) : Result := .next ({ s with hl := read16 s nn })

/-- `LD (nn),A` (R318). -/
def execLdMemA (nn : Word) (s : State) : Result := .next (write8 nn s.a s)

/-- `LD A,(nn)` (R319). -/
def execLdAMem (nn : Word) (s : State) : Result := .next ({ s with a := read8 s nn })

/-- `RLCA` (R320). -/
def execRlca (s : State) : Result := .next (rotAcc rlc s)

/-- `RRCA` (R321). -/
def execRrca (s : State) : Result := .next (rotAcc rrc s)

/-- `RLA` (R322). -/
def execRla (s : State) : Result := .next (rotAcc (rl · s.f.c) s)

/-- `RRA` (R323). -/
def execRra (s : State) : Result := .next (rotAcc (rr · s.f.c) s)

/-- `DJNZ e` (R324): no flag. -/
def execDjnz (e : Byte) (s : State) : Result :=
  let b := reg8 s .b - 1
  let s1 := setReg8 .b b s
  .next (if b = 0 then s1 else jumpRel e s1)

/-- `DAA` (R325): H is a free value (log 4). -/
def execDaa (s : State) : Result :=
  let r := daaResult s.f s.a
  .next (writeF { s := r.msb, z := r == 0, h := drawn s 0, pv := parityEven r, n := s.f.n, c := daaCarry s.f s.a }
    (skipDraws 1 { s with a := r }))

/-- `CPL` (R326). -/
def execCpl (s : State) : Result := .next (writeF { s.f.six with h := true, n := true } { s with a := ~~~s.a })

/-- `SCF` (R327). -/
def execScf (s : State) : Result := .next (writeF { s.f.six with h := false, n := false, c := true } s)

/-- `CCF` (R328): H takes the old C. -/
def execCcf (s : State) : Result := .next (writeF { s.f.six with h := s.f.c, n := false, c := !s.f.c } s)

/-- `JP (HL)` (R329): no memory is read. -/
def execJpHL (s : State) : Result := .next (jump s.hl s)

end Sys2Proof.Machine
end

