-- ==== Sys2Proof/Machine/Tier2Extended.lean ====
section
/-! DEFINITION. The meanings of 48_tier2_ed_ddfd.md sections 1 to 4: NEG, RRD, RLD and the block instructions, one iteration a step (D29). -/

namespace Sys2Proof.Machine

/-! ## Accumulator and nibbles -/

/-- `NEG` (R340). -/
def execNeg (s : State) : Result := .next (setAcc (sub8 s.params.subHalf 0 s.a false) s)

/-- `RRD` (R341). -/
def execRrd (s : State) : Result :=
  let m := read8 s s.hl
  let a : Byte := hiNib s.a ++ loNib m
  .next (setAcc (a, parityFlags a s.f.c) (write8 s.hl (loNib s.a ++ hiNib m) s))

/-- `RLD` (R342). -/
def execRld (s : State) : Result :=
  let m := read8 s s.hl
  let a : Byte := hiNib s.a ++ hiNib m
  .next (setAcc (a, parityFlags a s.f.c) (write8 s.hl (loNib m ++ loNib s.a) s))

/-! ## Block transfer -/

/-- `LDI` (R343). -/
def execLdi (s : State) : Result := .next (blockMove 1 s)

/-- `LDD` (R344). -/
def execLdd (s : State) : Result := .next (blockMove (-1) s)

/-- `LDIR` (R345). -/
def execLdir (s : State) : Result := .next (repeatIf (s.bc - 1 != 0) (blockMove 1 s))

/-- `LDDR` (R346). -/
def execLddr (s : State) : Result := .next (repeatIf (s.bc - 1 != 0) (blockMove (-1) s))

/-! ## Block compare -/

/-- `CPI` (R347). -/
def execCpi (s : State) : Result := .next (blockCompare 1 s)

/-- `CPD` (R348). -/
def execCpd (s : State) : Result := .next (blockCompare (-1) s)

/-- `CPIR` (R349). -/
def execCpir (s : State) : Result := .next (repeatIf (s.bc - 1 != 0 && (blockComparison s).1 != 0) (blockCompare 1 s))

/-- `CPDR` (R350). -/
def execCpdr (s : State) : Result := .next (repeatIf (s.bc - 1 != 0 && (blockComparison s).1 != 0) (blockCompare (-1) s))

/-! ## Block input and output -/

/-- `INI` (R351). -/
def execIni (s : State) : Result := .next (blockIn 1 s)

/-- `IND` (R352). -/
def execInd (s : State) : Result := .next (blockIn (-1) s)

/-- `INIR` (R353). -/
def execInir (s : State) : Result := .next (repeatIf (reg8 s .b - 1 != 0) (blockIn 1 s))

/-- `INDR` (R354). -/
def execIndr (s : State) : Result := .next (repeatIf (reg8 s .b - 1 != 0) (blockIn (-1) s))

/-- `OUTI` (R355). -/
def execOuti (s : State) : Result := .next (blockOut 1 s)

/-- `OUTD` (R356). -/
def execOutd (s : State) : Result := .next (blockOut (-1) s)

/-- `OTIR` (R357). -/
def execOtir (s : State) : Result := .next (repeatIf (reg8 s .b - 1 != 0) (blockOut 1 s))

/-- `OTDR` (R358). -/
def execOtdr (s : State) : Result := .next (repeatIf (reg8 s .b - 1 != 0) (blockOut (-1) s))

end Sys2Proof.Machine
end

