-- ==== Sys2Proof/Machine/Tier2Indexed.lean ====
section
/-! DEFINITION. The meanings of 48_tier2_ed_ddfd.md section 5: the tier-2 rows of the DD/FD table; each definition stands for IX and IY. -/

namespace Sys2Proof.Machine

/-- `LD (nn),IX` (R360). -/
def execLdMemXY (nn : Word) (x : Index) (s : State) : Result := .next (write16 nn (index s x) s)

/-- `LD IX,(nn)` (R361). -/
def execLdXYMem (x : Index) (nn : Word) (s : State) : Result := .next (setIndex x (read16 s nn) s)

/-- `INC (IX+d)` (R362). -/
def execIncXYd (x : Index) (d : Byte) (s : State) : Result := .next (incMem (effAddr s x d) s)

/-- `DEC (IX+d)` (R363). -/
def execDecXYd (x : Index) (d : Byte) (s : State) : Result := .next (decMem (effAddr s x d) s)

/-- `LD (IX+d),n` (R364). -/
def execLdXYdN (x : Index) (d n : Byte) (s : State) : Result := .next (write8 (effAddr s x d) n s)

/-- `ADC A,(IX+d)` (R365). -/
def execAdcAXYd (x : Index) (d : Byte) (s : State) : Result := .next (accAdc (read8 s (effAddr s x d)) s)

/-- `SBC A,(IX+d)` (R366). -/
def execSbcAXYd (x : Index) (d : Byte) (s : State) : Result := .next (accSbc (read8 s (effAddr s x d)) s)

/-- `POP IX` (R367). -/
def execPopXY (x : Index) (s : State) : Result := .next (setIndex x (popped s) (dropTop s))

/-- `EX (SP),IX` (R368). -/
def execExSPXY (x : Index) (s : State) : Result := .next (setIndex x (popped s) (exchangeTop (index s x) s))

/-- `PUSH IX` (R369). -/
def execPushXY (x : Index) (s : State) : Result := .next (push16 (index s x) s)

/-- `JP (IX)` (R370): no memory is read. -/
def execJpXY (x : Index) (s : State) : Result := .next (jump (index s x) s)

/-- `LD SP,IX` (R371). -/
def execLdSPXY (x : Index) (s : State) : Result := .next ({ s with sp := index s x })

end Sys2Proof.Machine
end

