-- ==== Sys2Proof/Machine/Dispatch.lean ====
section
/-! DEFINITION. What each instruction does: one arm per constructor of `Instr`, each one direct call of its meaning. -/

namespace Sys2Proof.Machine

/-- The operation of an instruction, run with PC already past its last byte (30_encoding.md R102). -/
def exec (i : Instr) (s : State) : Host.Outcome State Fault Refusal :=
  match i with
  | .ldRR dst src => Sys2Proof.Machine.execLdRR dst src s
  | .ldRHL r => Sys2Proof.Machine.execLdRHL r s
  | .ldHLR r => Sys2Proof.Machine.execLdHLR r s
  | .ldRN r n => Sys2Proof.Machine.execLdRN r n s
  | .ldHLN n => Sys2Proof.Machine.execLdHLN n s
  | .ldDdNN p nn => Sys2Proof.Machine.execLdDdNN p nn s
  | .ldSPHL => Sys2Proof.Machine.execLdSPHL s
  | .push q => Sys2Proof.Machine.execPush q s
  | .pop q => Sys2Proof.Machine.execPop q s
  | .exDEHL => Sys2Proof.Machine.execExDEHL s
  | .exAFAF => Sys2Proof.Machine.execExAFAF s
  | .exx => Sys2Proof.Machine.execExx s
  | .exSPHL => Sys2Proof.Machine.execExSPHL s
  | .addAR r => Sys2Proof.Machine.execAddAR r s
  | .addAHL => Sys2Proof.Machine.execAddAHL s
  | .addAN n => Sys2Proof.Machine.execAddAN n s
  | .adcAR r => Sys2Proof.Machine.execAdcAR r s
  | .adcAHL => Sys2Proof.Machine.execAdcAHL s
  | .adcAN n => Sys2Proof.Machine.execAdcAN n s
  | .subAR r => Sys2Proof.Machine.execSubAR r s
  | .subAHL => Sys2Proof.Machine.execSubAHL s
  | .subAN n => Sys2Proof.Machine.execSubAN n s
  | .sbcAR r => Sys2Proof.Machine.execSbcAR r s
  | .sbcAHL => Sys2Proof.Machine.execSbcAHL s
  | .sbcAN n => Sys2Proof.Machine.execSbcAN n s
  | .andAR r => Sys2Proof.Machine.execAndAR r s
  | .andAHL => Sys2Proof.Machine.execAndAHL s
  | .andAN n => Sys2Proof.Machine.execAndAN n s
  | .xorAR r => Sys2Proof.Machine.execXorAR r s
  | .xorAHL => Sys2Proof.Machine.execXorAHL s
  | .xorAN n => Sys2Proof.Machine.execXorAN n s
  | .orAR r => Sys2Proof.Machine.execOrAR r s
  | .orAHL => Sys2Proof.Machine.execOrAHL s
  | .orAN n => Sys2Proof.Machine.execOrAN n s
  | .cpAR r => Sys2Proof.Machine.execCpAR r s
  | .cpAHL => Sys2Proof.Machine.execCpAHL s
  | .cpAN n => Sys2Proof.Machine.execCpAN n s
  | .incR r => Sys2Proof.Machine.execIncR r s
  | .incHL => Sys2Proof.Machine.execIncHL s
  | .decR r => Sys2Proof.Machine.execDecR r s
  | .decHL => Sys2Proof.Machine.execDecHL s
  | .incSS p => Sys2Proof.Machine.execIncSS p s
  | .decSS p => Sys2Proof.Machine.execDecSS p s
  | .addHLSS p => Sys2Proof.Machine.execAddHLSS p s
  | .jpNN nn => Sys2Proof.Machine.execJpNN nn s
  | .jpCcNN cc nn => Sys2Proof.Machine.execJpCcNN cc nn s
  | .jrE e => Sys2Proof.Machine.execJrE e s
  | .jrCcE cc e => Sys2Proof.Machine.execJrCcE cc e s
  | .callNN nn => Sys2Proof.Machine.execCallNN nn s
  | .callCcNN cc nn => Sys2Proof.Machine.execCallCcNN cc nn s
  | .ret => Sys2Proof.Machine.execRet s
  | .retCc cc => Sys2Proof.Machine.execRetCc cc s
  | .rst t => Sys2Proof.Machine.execRst t s
  | .inAN n => Sys2Proof.Machine.execInAN n s
  | .outNA n => Sys2Proof.Machine.execOutNA n s
  | .ei => Sys2Proof.Machine.execEi s
  | .di => Sys2Proof.Machine.execDi s
  | .halt => Sys2Proof.Machine.execHalt s
  | .rlcR r => Sys2Proof.Machine.execRlcR r s
  | .rlcHL => Sys2Proof.Machine.execRlcHL s
  | .rrcR r => Sys2Proof.Machine.execRrcR r s
  | .rrcHL => Sys2Proof.Machine.execRrcHL s
  | .rlR r => Sys2Proof.Machine.execRlR r s
  | .rlHL => Sys2Proof.Machine.execRlHL s
  | .rrR r => Sys2Proof.Machine.execRrR r s
  | .rrHL => Sys2Proof.Machine.execRrHL s
  | .slaR r => Sys2Proof.Machine.execSlaR r s
  | .slaHL => Sys2Proof.Machine.execSlaHL s
  | .sraR r => Sys2Proof.Machine.execSraR r s
  | .sraHL => Sys2Proof.Machine.execSraHL s
  | .sllR r => Sys2Proof.Machine.execSllR r s
  | .sllHL => Sys2Proof.Machine.execSllHL s
  | .srlR r => Sys2Proof.Machine.execSrlR r s
  | .srlHL => Sys2Proof.Machine.execSrlHL s
  | .bitR b r => Sys2Proof.Machine.execBitR b r s
  | .bitHL b => Sys2Proof.Machine.execBitHL b s
  | .resR b r => Sys2Proof.Machine.execResR b r s
  | .resHL b => Sys2Proof.Machine.execResHL b s
  | .setR b r => Sys2Proof.Machine.execSetR b r s
  | .setHL b => Sys2Proof.Machine.execSetHL b s
  | .adcHLSS p => Sys2Proof.Machine.execAdcHLSS p s
  | .sbcHLSS p => Sys2Proof.Machine.execSbcHLSS p s
  | .ldMemDd nn p => Sys2Proof.Machine.execLdMemDd nn p s
  | .ldDdMem p nn => Sys2Proof.Machine.execLdDdMem p nn s
  | .inRC r => Sys2Proof.Machine.execInRC r s
  | .outCR r => Sys2Proof.Machine.execOutCR r s
  | .addXY x p => Sys2Proof.Machine.execAddXY x p s
  | .incXY x => Sys2Proof.Machine.execIncXY x s
  | .decXY x => Sys2Proof.Machine.execDecXY x s
  | .ldXYNN x nn => Sys2Proof.Machine.execLdXYNN x nn s
  | .ldRXYd x r d => Sys2Proof.Machine.execLdRXYd x r d s
  | .ldXYdR x d r => Sys2Proof.Machine.execLdXYdR x d r s
  | .addAXYd x d => Sys2Proof.Machine.execAddAXYd x d s
  | .subAXYd x d => Sys2Proof.Machine.execSubAXYd x d s
  | .andAXYd x d => Sys2Proof.Machine.execAndAXYd x d s
  | .xorAXYd x d => Sys2Proof.Machine.execXorAXYd x d s
  | .orAXYd x d => Sys2Proof.Machine.execOrAXYd x d s
  | .cpAXYd x d => Sys2Proof.Machine.execCpAXYd x d s
  | .rlcXYd x d => Sys2Proof.Machine.execRlcXYd x d s
  | .rrcXYd x d => Sys2Proof.Machine.execRrcXYd x d s
  | .rlXYd x d => Sys2Proof.Machine.execRlXYd x d s
  | .rrXYd x d => Sys2Proof.Machine.execRrXYd x d s
  | .slaXYd x d => Sys2Proof.Machine.execSlaXYd x d s
  | .sraXYd x d => Sys2Proof.Machine.execSraXYd x d s
  | .sllXYd x d => Sys2Proof.Machine.execSllXYd x d s
  | .srlXYd x d => Sys2Proof.Machine.execSrlXYd x d s
  | .bitXYd x b d => Sys2Proof.Machine.execBitXYd x b d s
  | .resXYd x b d => Sys2Proof.Machine.execResXYd x b d s
  | .setXYd x b d => Sys2Proof.Machine.execSetXYd x b d s
  | .nop => Sys2Proof.Machine.execNop s
  | .ldBCA => Sys2Proof.Machine.execLdBCA s
  | .ldABC => Sys2Proof.Machine.execLdABC s
  | .ldDEA => Sys2Proof.Machine.execLdDEA s
  | .ldADE => Sys2Proof.Machine.execLdADE s
  | .ldMemHL nn => Sys2Proof.Machine.execLdMemHL nn s
  | .ldHLMem nn => Sys2Proof.Machine.execLdHLMem nn s
  | .ldMemA nn => Sys2Proof.Machine.execLdMemA nn s
  | .ldAMem nn => Sys2Proof.Machine.execLdAMem nn s
  | .rlca => Sys2Proof.Machine.execRlca s
  | .rrca => Sys2Proof.Machine.execRrca s
  | .rla => Sys2Proof.Machine.execRla s
  | .rra => Sys2Proof.Machine.execRra s
  | .djnz e => Sys2Proof.Machine.execDjnz e s
  | .daa => Sys2Proof.Machine.execDaa s
  | .cpl => Sys2Proof.Machine.execCpl s
  | .scf => Sys2Proof.Machine.execScf s
  | .ccf => Sys2Proof.Machine.execCcf s
  | .jpHL => Sys2Proof.Machine.execJpHL s
  | .neg => Sys2Proof.Machine.execNeg s
  | .rrd => Sys2Proof.Machine.execRrd s
  | .rld => Sys2Proof.Machine.execRld s
  | .ldi => Sys2Proof.Machine.execLdi s
  | .ldd => Sys2Proof.Machine.execLdd s
  | .ldir => Sys2Proof.Machine.execLdir s
  | .lddr => Sys2Proof.Machine.execLddr s
  | .cpi => Sys2Proof.Machine.execCpi s
  | .cpd => Sys2Proof.Machine.execCpd s
  | .cpir => Sys2Proof.Machine.execCpir s
  | .cpdr => Sys2Proof.Machine.execCpdr s
  | .ini => Sys2Proof.Machine.execIni s
  | .ind => Sys2Proof.Machine.execInd s
  | .inir => Sys2Proof.Machine.execInir s
  | .indr => Sys2Proof.Machine.execIndr s
  | .outi => Sys2Proof.Machine.execOuti s
  | .outd => Sys2Proof.Machine.execOutd s
  | .otir => Sys2Proof.Machine.execOtir s
  | .otdr => Sys2Proof.Machine.execOtdr s
  | .ldMemXY nn x => Sys2Proof.Machine.execLdMemXY nn x s
  | .ldXYMem x nn => Sys2Proof.Machine.execLdXYMem x nn s
  | .incXYd x d => Sys2Proof.Machine.execIncXYd x d s
  | .decXYd x d => Sys2Proof.Machine.execDecXYd x d s
  | .ldXYdN x d n => Sys2Proof.Machine.execLdXYdN x d n s
  | .adcAXYd x d => Sys2Proof.Machine.execAdcAXYd x d s
  | .sbcAXYd x d => Sys2Proof.Machine.execSbcAXYd x d s
  | .popXY x => Sys2Proof.Machine.execPopXY x s
  | .exSPXY x => Sys2Proof.Machine.execExSPXY x s
  | .pushXY x => Sys2Proof.Machine.execPushXY x s
  | .jpXY x => Sys2Proof.Machine.execJpXY x s
  | .ldSPXY x => Sys2Proof.Machine.execLdSPXY x s

end Sys2Proof.Machine
end

