-- ==== Sys2Proof/Machine/Cycle.lean ====
section
/-! DEFINITION. The step `execute()` (30_encoding.md R80), the instruction fetch (R82 to R88, R102) and how an instruction is placed where
the next step fetches it. -/

namespace Sys2Proof.Machine

/-! ## Fetch -/

/-- The four bytes from `a` on, addresses mod 65536 (R81, R107, 49_disassembler.md R399). -/
def windowAt (s : State) (a : Word) : Window := ⟨read8 s a, read8 s (a + 1), read8 s (a + 2), read8 s (a + 3)⟩

/-- PC moved past `n` bytes (R102). -/
def advance (n : Nat) (s : State) : State := { s with pc := s.pc + BitVec.ofNat 16 n }

/-- How many bytes the dispatcher fetches on a window: the instruction's length, or the bytes seen when no row was found (R88, R102). -/
def fetchedCount (impl2 : List Tier2Row) (w : Window) : Nat :=
  match decode impl2 w with
  | .row i => i.length
  | .unknown bytes => bytes.length

/-! ## The step -/

/-- A decoded instruction runs with PC already past all its bytes (R80, R102). -/
def runDecoded (i : Instr) (s : State) : Result := exec i (advance i.length s)

/-- Step 3 of R80: fetch, decode and run the instruction at PC, or raise `UnknownInstruction` with the address of its first byte. -/
def fetchAndRun (s : State) : Result :=
  match decode s.params.impl2 (windowAt s s.pc) with
  | .row i => runDecoded i s
  | .unknown bytes => raiseUnknown bytes s.pc

/-- `execute()` on an engine that is not faulted (R80): interrupt entry, else nothing while HALTED, else one instruction. -/
def executeCycle (s : State) : Result :=
  if interruptDue s then .next (takeInterrupt s)
  else
    match s.run with
    | .halted => .next s
    | .running => fetchAndRun s

/-- One step: a faulted engine is stuck (10_state.md R35, 93_implementation_defined.md U9). -/
def cycle (s : State) : Result :=
  match s.fault with
  | some r => .fault (.faulted r.bytes r.pc)
  | none => executeCycle s

/-! ## The fetch one `Fetch8()` at a time

The text of R82 to R88 read literally, one `Fetch8()` after the other. The step uses the window of R107 instead; that the two agree is a
statement of its own. -/

/-- `Fetch8()` (00_scope.md R12): the byte at PC, and PC + 1. -/
def fetch8 (s : State) : Byte × State := (read8 s s.pc, { s with pc := s.pc + 1 })

/-- `n` more calls of `Fetch8()` after the bytes already fetched. -/
def fetchMore : Nat → List Byte × State → List Byte × State
  | 0, f => f
  | n + 1, f => fetchMore n (f.1 ++ [(fetch8 f.2).1], (fetch8 f.2).2)

/-- How many operand bytes follow the opcode bytes `seen` of a row, if there is a row and the gate lets it in (R83, R85, R86). -/
def operandCount (impl2 : List Tier2Row) (seen : Nat) : Option Instr → Nat
  | some i => if i.wellFormed impl2 then i.length - seen else 0
  | none => 0

/-- The bytes the dispatcher fetches for the instruction at PC, and the state after the fetches (R82 to R88). -/
def fetchInstr (s : State) : List Byte × State :=
  let b0 := (fetch8 s).1
  let f1 := fetchMore 1 ([], s)
  if b0 = 0xCB then fetchMore 1 f1
  else if b0 = 0xED then
    let b1 := (fetch8 f1.2).1
    fetchMore (operandCount s.params.impl2 2 (edRow b1 0 0)) (fetchMore 1 f1)
  else if b0 = 0xDD ∨ b0 = 0xFD then
    let b1 := (fetch8 f1.2).1
    if b1 = 0xCB then fetchMore 2 (fetchMore 1 f1)
    else fetchMore (operandCount s.params.impl2 2 (xyRow .ix b1 0 0)) (fetchMore 1 f1)
  else fetchMore (operandCount s.params.impl2 1 (baseRow b0 0 0)) f1

/-! ## Placing an instruction for the next step -/

/-- The engine made ready to fetch: not faulted, RUNNING, and no interrupt due. -/
def readyToFetch (s : State) : State :=
  { s with fault := none, run := .running, irqPending := s.irqPending && !s.iff }

/-- A window stored at PC (70_reset_and_hazards.md R443: the host's load). -/
def placeWindow (w : Window) (s : State) : State :=
  write8 (s.pc + 3) w.b3 (write8 (s.pc + 2) w.b2 (write8 (s.pc + 1) w.b1 (write8 s.pc w.b0 s)))

/-- The instruction whose table word is `w` placed where the next step fetches it (log 7, 12). -/
def placeWord (nbits w : Nat) (s : State) : State := readyToFetch (placeWindow (windowOf (tableBytes nbits w)) s)

end Sys2Proof.Machine
end

