-- ==== Sys2Proof/Machine/Step.lean ====
section
/-! DEFINITION. The step and the placing of an instruction, as the host names them. -/

namespace Sys2Proof.Machine

/-- One call of `execute()` (30_encoding.md R80). -/
def step (s : State) : Host.Outcome State Fault Refusal := cycle s

/-- `s` with the instruction whose bits are `w` (numbered as spec/opcode_table.json numbers them) stored where the next step fetches:
the four bytes at PC are written, and a HALTED or faulted engine or one with an interrupt due is made ready to fetch (log 7, 12). -/
def State.withFetchWord (s : State) (nbits w : Nat) : State := placeWord nbits w s

end Sys2Proof.Machine
end

