-- ==== Sys2Proof/Machine/Disasm.lean ====
section
/-! DEFINITION. The disassembler (49_disassembler.md): the text and the length of every window, over the one table that the dispatcher uses
(R391). -/

namespace Sys2Proof.Machine

/-! ## Names and numbers (R393 to R395) -/

/-- The name of an 8-bit register. -/
def reg8Text : Reg8 → String
  | .b => "B"
  | .c => "C"
  | .d => "D"
  | .e => "E"
  | .h => "H"
  | .l => "L"
  | .a => "A"

/-- Columns `dd` and `ss`. -/
def pairText : Pair → String
  | .bc => "BC"
  | .de => "DE"
  | .hl => "HL"
  | .sp => "SP"

/-- Column `qq`. -/
def stackPairText : StackPair → String
  | .bc => "BC"
  | .de => "DE"
  | .hl => "HL"
  | .af => "AF"

/-- `IX` or `IY`. -/
def indexText : Index → String
  | .ix => "IX"
  | .iy => "IY"

/-- Column `pp`. -/
def indexPairText (x : Index) : IndexPair → String
  | .bc => "BC"
  | .de => "DE"
  | .xy => indexText x
  | .sp => "SP"

/-- The eight conditions. -/
def condText : Cond → String
  | .nz => "NZ"
  | .z => "Z"
  | .nc => "NC"
  | .c => "C"
  | .po => "PO"
  | .pe => "PE"
  | .p => "P"
  | .m => "M"

/-- The four conditions of JR. -/
def relCondText : RelCond → String
  | .nz => "NZ"
  | .z => "Z"
  | .nc => "NC"
  | .c => "C"

/-- One upper-case hexadecimal digit; decimal below ten. -/
def digitText (n : Nat) : String :=
  match n with
  | 0 => "0"
  | 1 => "1"
  | 2 => "2"
  | 3 => "3"
  | 4 => "4"
  | 5 => "5"
  | 6 => "6"
  | 7 => "7"
  | 8 => "8"
  | 9 => "9"
  | 10 => "A"
  | 11 => "B"
  | 12 => "C"
  | 13 => "D"
  | 14 => "E"
  | _ => "F"

/-- Two hexadecimal digits. -/
def hexText (v : Byte) : String := digitText (v.toNat / 16) ++ digitText (v.toNat % 16)

/-- An 8-bit number: `$` and two digits (R394). -/
def byteText (v : Byte) : String := "$" ++ hexText v

/-- A 16-bit number: `$` and four digits (R394). -/
def wordText (v : Word) : String := "$" ++ (hexText (hi8 v) ++ hexText (lo8 v))

/-- A bit number (R394). -/
def bitText (b : BitVec 3) : String := digitText b.toNat

/-- A restart target: `8 * t` as a byte (R394). -/
def rstText (t : BitVec 3) : String := byteText (BitVec.ofNat 8 (8 * t.toNat))

/-- A number below 1000 in decimal, without padding. -/
def decimalText (n : Nat) : String :=
  if n < 10 then digitText n
  else if n < 100 then digitText (n / 10) ++ digitText (n % 10)
  else digitText (n / 100) ++ (digitText (n / 10 % 10) ++ digitText (n % 10))

/-- A displacement or relative offset: a sign and a decimal number, `+0` for zero (R395). -/
def signedText (v : Byte) : String :=
  if v.toNat < 128 then "+" ++ decimalText v.toNat else "-" ++ decimalText (256 - v.toNat)

/-! ## Templates (R396) -/

/-- The text of an instruction: its row's template with every field replaced (R396). DESIGN CHOICE (log 22): R401 gives every text to exactly
one row, but R396's templates print the rows of R267 (dd = HL) and R316 alike, and those of R268 (dd = HL) and R317; R396 is followed. Where
`IMPL2` holds neither R316 nor R317, the spec's default among them, the two rules agree. -/
def instrText : Instr → String
  | .ldRR dst src => "LD " ++ reg8Text dst ++ "," ++ reg8Text src
  | .ldRHL r => "LD " ++ reg8Text r ++ ",(HL)"
  | .ldHLR r => "LD (HL)," ++ reg8Text r
  | .ldRN r n => "LD " ++ reg8Text r ++ "," ++ byteText n
  | .ldHLN n => "LD (HL)," ++ byteText n
  | .ldDdNN p nn => "LD " ++ pairText p ++ "," ++ wordText nn
  | .ldSPHL => "LD SP,HL"
  | .push q => "PUSH " ++ stackPairText q
  | .pop q => "POP " ++ stackPairText q
  | .exDEHL => "EX DE,HL"
  | .exAFAF => "EX AF,AF'"
  | .exx => "EXX"
  | .exSPHL => "EX (SP),HL"
  | .addAR r => "ADD A," ++ reg8Text r
  | .addAHL => "ADD A,(HL)"
  | .addAN n => "ADD A," ++ byteText n
  | .adcAR r => "ADC A," ++ reg8Text r
  | .adcAHL => "ADC A,(HL)"
  | .adcAN n => "ADC A," ++ byteText n
  | .subAR r => "SUB A," ++ reg8Text r
  | .subAHL => "SUB A,(HL)"
  | .subAN n => "SUB A," ++ byteText n
  | .sbcAR r => "SBC A," ++ reg8Text r
  | .sbcAHL => "SBC A,(HL)"
  | .sbcAN n => "SBC A," ++ byteText n
  | .andAR r => "AND A," ++ reg8Text r
  | .andAHL => "AND A,(HL)"
  | .andAN n => "AND A," ++ byteText n
  | .xorAR r => "XOR A," ++ reg8Text r
  | .xorAHL => "XOR A,(HL)"
  | .xorAN n => "XOR A," ++ byteText n
  | .orAR r => "OR A," ++ reg8Text r
  | .orAHL => "OR A,(HL)"
  | .orAN n => "OR A," ++ byteText n
  | .cpAR r => "CP A," ++ reg8Text r
  | .cpAHL => "CP A,(HL)"
  | .cpAN n => "CP A," ++ byteText n
  | .incR r => "INC " ++ reg8Text r
  | .incHL => "INC (HL)"
  | .decR r => "DEC " ++ reg8Text r
  | .decHL => "DEC (HL)"
  | .incSS p => "INC " ++ pairText p
  | .decSS p => "DEC " ++ pairText p
  | .addHLSS p => "ADD HL," ++ pairText p
  | .jpNN nn => "JP " ++ wordText nn
  | .jpCcNN cc nn => "JP " ++ condText cc ++ "," ++ wordText nn
  | .jrE e => "JR " ++ signedText e
  | .jrCcE cc e => "JR " ++ relCondText cc ++ "," ++ signedText e
  | .callNN nn => "CALL " ++ wordText nn
  | .callCcNN cc nn => "CALL " ++ condText cc ++ "," ++ wordText nn
  | .ret => "RET"
  | .retCc cc => "RET " ++ condText cc
  | .rst t => "RST " ++ rstText t
  | .inAN n => "IN A,(" ++ byteText n ++ ")"
  | .outNA n => "OUT (" ++ byteText n ++ "),A"
  | .ei => "EI"
  | .di => "DI"
  | .halt => "HALT"
  | .rlcR r => "RLC " ++ reg8Text r
  | .rlcHL => "RLC (HL)"
  | .rrcR r => "RRC " ++ reg8Text r
  | .rrcHL => "RRC (HL)"
  | .rlR r => "RL " ++ reg8Text r
  | .rlHL => "RL (HL)"
  | .rrR r => "RR " ++ reg8Text r
  | .rrHL => "RR (HL)"
  | .slaR r => "SLA " ++ reg8Text r
  | .slaHL => "SLA (HL)"
  | .sraR r => "SRA " ++ reg8Text r
  | .sraHL => "SRA (HL)"
  | .sllR r => "SLL " ++ reg8Text r
  | .sllHL => "SLL (HL)"
  | .srlR r => "SRL " ++ reg8Text r
  | .srlHL => "SRL (HL)"
  | .bitR b r => "BIT " ++ bitText b ++ "," ++ reg8Text r
  | .bitHL b => "BIT " ++ bitText b ++ ",(HL)"
  | .resR b r => "RES " ++ bitText b ++ "," ++ reg8Text r
  | .resHL b => "RES " ++ bitText b ++ ",(HL)"
  | .setR b r => "SET " ++ bitText b ++ "," ++ reg8Text r
  | .setHL b => "SET " ++ bitText b ++ ",(HL)"
  | .adcHLSS p => "ADC HL," ++ pairText p
  | .sbcHLSS p => "SBC HL," ++ pairText p
  | .ldMemDd nn p => "LD (" ++ wordText nn ++ ")," ++ pairText p
  | .ldDdMem p nn => "LD " ++ pairText p ++ ",(" ++ wordText nn ++ ")"
  | .inRC r => "IN " ++ reg8Text r ++ ",(C)"
  | .outCR r => "OUT (C)," ++ reg8Text r
  | .addXY x p => "ADD " ++ indexText x ++ "," ++ indexPairText x p
  | .incXY x => "INC " ++ indexText x
  | .decXY x => "DEC " ++ indexText x
  | .ldXYNN x nn => "LD " ++ indexText x ++ "," ++ wordText nn
  | .ldRXYd x r d => "LD " ++ reg8Text r ++ ",(" ++ indexText x ++ signedText d ++ ")"
  | .ldXYdR x d r => "LD (" ++ indexText x ++ signedText d ++ ")," ++ reg8Text r
  | .addAXYd x d => "ADD A,(" ++ indexText x ++ signedText d ++ ")"
  | .subAXYd x d => "SUB A,(" ++ indexText x ++ signedText d ++ ")"
  | .andAXYd x d => "AND A,(" ++ indexText x ++ signedText d ++ ")"
  | .xorAXYd x d => "XOR A,(" ++ indexText x ++ signedText d ++ ")"
  | .orAXYd x d => "OR A,(" ++ indexText x ++ signedText d ++ ")"
  | .cpAXYd x d => "CP A,(" ++ indexText x ++ signedText d ++ ")"
  | .rlcXYd x d => "RLC (" ++ indexText x ++ signedText d ++ ")"
  | .rrcXYd x d => "RRC (" ++ indexText x ++ signedText d ++ ")"
  | .rlXYd x d => "RL (" ++ indexText x ++ signedText d ++ ")"
  | .rrXYd x d => "RR (" ++ indexText x ++ signedText d ++ ")"
  | .slaXYd x d => "SLA (" ++ indexText x ++ signedText d ++ ")"
  | .sraXYd x d => "SRA (" ++ indexText x ++ signedText d ++ ")"
  | .sllXYd x d => "SLL (" ++ indexText x ++ signedText d ++ ")"
  | .srlXYd x d => "SRL (" ++ indexText x ++ signedText d ++ ")"
  | .bitXYd x b d => "BIT " ++ bitText b ++ ",(" ++ indexText x ++ signedText d ++ ")"
  | .resXYd x b d => "RES " ++ bitText b ++ ",(" ++ indexText x ++ signedText d ++ ")"
  | .setXYd x b d => "SET " ++ bitText b ++ ",(" ++ indexText x ++ signedText d ++ ")"
  | .nop => "NOP"
  | .ldBCA => "LD (BC),A"
  | .ldABC => "LD A,(BC)"
  | .ldDEA => "LD (DE),A"
  | .ldADE => "LD A,(DE)"
  | .ldMemHL nn => "LD (" ++ wordText nn ++ "),HL"
  | .ldHLMem nn => "LD HL,(" ++ wordText nn ++ ")"
  | .ldMemA nn => "LD (" ++ wordText nn ++ "),A"
  | .ldAMem nn => "LD A,(" ++ wordText nn ++ ")"
  | .rlca => "RLCA"
  | .rrca => "RRCA"
  | .rla => "RLA"
  | .rra => "RRA"
  | .djnz e => "DJNZ " ++ signedText e
  | .daa => "DAA"
  | .cpl => "CPL"
  | .scf => "SCF"
  | .ccf => "CCF"
  | .jpHL => "JP (HL)"
  | .neg => "NEG"
  | .rrd => "RRD"
  | .rld => "RLD"
  | .ldi => "LDI"
  | .ldd => "LDD"
  | .ldir => "LDIR"
  | .lddr => "LDDR"
  | .cpi => "CPI"
  | .cpd => "CPD"
  | .cpir => "CPIR"
  | .cpdr => "CPDR"
  | .ini => "INI"
  | .ind => "IND"
  | .inir => "INIR"
  | .indr => "INDR"
  | .outi => "OUTI"
  | .outd => "OUTD"
  | .otir => "OTIR"
  | .otdr => "OTDR"
  | .ldMemXY nn x => "LD (" ++ wordText nn ++ ")," ++ indexText x
  | .ldXYMem x nn => "LD " ++ indexText x ++ ",(" ++ wordText nn ++ ")"
  | .incXYd x d => "INC (" ++ indexText x ++ signedText d ++ ")"
  | .decXYd x d => "DEC (" ++ indexText x ++ signedText d ++ ")"
  | .ldXYdN x d n => "LD (" ++ indexText x ++ signedText d ++ ")," ++ byteText n
  | .adcAXYd x d => "ADC A,(" ++ indexText x ++ signedText d ++ ")"
  | .sbcAXYd x d => "SBC A,(" ++ indexText x ++ signedText d ++ ")"
  | .popXY x => "POP " ++ indexText x
  | .exSPXY x => "EX (SP)," ++ indexText x
  | .pushXY x => "PUSH " ++ indexText x
  | .jpXY x => "JP (" ++ indexText x ++ ")"
  | .ldSPXY x => "LD SP," ++ indexText x

/-- The placeholder of a window that selects no row (R397): the table it failed in is told by the bytes examined. -/
def placeholderText (bytes : List Byte) : String :=
  match bytes with
  | [_] => "UNKN"
  | [b0, _] => if b0 = 0xED then "EXTD" else "INDX"
  | _ => "BITS"

/-! ## The function -/

/-- `disassemble(window)` (R390): the text and the number of bytes, from the window and `IMPL2` alone. -/
def disassemble (impl2 : List Tier2Row) (w : Window) : String × Nat :=
  match decode impl2 w with
  | .row i => (instrText i, i.length)
  | .unknown bytes => (placeholderText bytes, bytes.length)

/-- `disassemble(address)` (R399): the same function on the four bytes of Memory from the address on. -/
def disassembleAt (s : State) (a : Word) : String × Nat := disassemble s.params.impl2 (windowAt s a)

end Sys2Proof.Machine
end

