-- ==== Sys2Proof/Machine/HostOps.lean ====
section
/-! DEFINITION. What the host does between two steps (00_scope.md R7, R8, 70_reset_and_hazards.md): construction, `reset()`, `clear()`,
`loadProgram`, `registerPeripheral`, the interrupt request, the debug accessors, and `execute()` with its sticky fault record. -/

namespace Sys2Proof.Machine

/-! ## Reset and construction -/

/-- Construction (R442) with the open parameters `p`: nothing is bound, nothing pending, Memory all 0x00. -/
def construct (p : Params) : State := { State.reset with params := p }

/-- `reset()` (R440): every register 0, IFF 0, RUNNING, no fault record; the latch keeps its value or becomes 0, a free choice (log 10);
Memory and the peripheral table stay. -/
def hostReset (s : State) : State :=
  { s with
      a := 0, f := Flags.zero, bc := 0, de := 0, hl := 0
      aAlt := 0, fAlt := Flags.zero, bcAlt := 0, deAlt := 0, hlAlt := 0
      ix := 0, iy := 0, sp := 0, pc := resetPc, ir := 0
      iff := false, run := .running, fault := none
      irqPending := s.irqPending && Config.undef1 s.draws
      draws := s.draws + 1 }

/-- `clear()` (R441): everything `reset()` does, and every byte of Memory 0x00. -/
def hostClear (s : State) : State := { hostReset s with mem := [] }

/-! ## Loading and binding -/

/-- `loadProgram(origin, bytes)` (R443): the bytes in order, addresses mod 65536; nothing else changes. -/
def loadProgram (origin : Word) : List Byte → State → State
  | [], s => s
  | v :: rest, s => loadProgram (origin + 1) rest (write8 origin v s)

/-- `registerPeripheral(slot, device)` (R444); `none` is the refusal: the slot is bound already, or above 15. -/
def registerPeripheral (slot : Nat) (d : Device) (s : State) : Option State :=
  if h : slot < 16 then
    match s.slots[slot] with
    | none => some { s with slots := s.slots.set slot (some d) }
    | some _ => none
  else none

/-- The request latch set from outside, between two steps (60_exceptions.md R414). -/
def raiseRequest (s : State) : State := { s with irqPending := true }

/-! ## The debug interface (60_exceptions.md R426) -/

/-- What the debug accessors show of the register file; the flags through the status view (10_state.md R38). It holds exactly the elements
of R426's list. DESIGN CHOICE (log 21): IR, IFF, the run state and the request latch are left out of the view, where the spec leaves
open whether it shows them (10_state.md R30, R426, R450, 91_not_in_source.md N9). -/
structure DebugView where
  pc : Word
  sp : Word
  af : Word
  bc : Word
  de : Word
  hl : Word
  afAlt : Word
  bcAlt : Word
  deAlt : Word
  hlAlt : Word
  ix : Word
  iy : Word
  flags : Byte
deriving DecidableEq, Repr

/-- The register accessors (00_scope.md R8, R426). That they show neither IR, IFF, the run state nor the latch is the model's choice (log 21). -/
def debugView (s : State) : DebugView :=
  { pc := s.pc, sp := s.sp, af := af s, bc := s.bc, de := s.de, hl := s.hl
    afAlt := afAlt s, bcAlt := s.bcAlt, deAlt := s.deAlt, hlAlt := s.hlAlt
    ix := s.ix, iy := s.iy, flags := s.f.view }

/-- The byte-level Memory accessor. -/
def debugRead (s : State) (a : Word) : Byte := read8 s a

/-- The single-byte debug write (20_memory.md R65). -/
def debugWrite (a : Word) (v : Byte) (s : State) : State := write8 a v s

/-! ## `execute()` as the host sees it -/

/-- What a host operation answers. -/
inductive Reply (σ : Type) where
  /-- The operation was done. -/
  | done (t : σ)
  /-- The step raised `UnknownInstruction`; `t` is the faulted engine (10_state.md R35). -/
  | failed (r : FaultRecord) (t : σ)
  /-- The operation was refused and changed nothing (R444, U10 to U12). -/
  | refused
  /-- A faulted engine was stepped: no later state is defined (93_implementation_defined.md U9). -/
  | stuck
deriving DecidableEq, Repr

/-- The engine after `UnknownInstruction` (60_exceptions.md R412): the record is kept, PC is any value (log 6), nothing else has changed. -/
def afterFault (r : FaultRecord) (s : State) : State :=
  { s with fault := some r, pc := Config.pcAfterFault s.draws, draws := s.draws + 1 }

/-- One call of `execute()`, the fault record kept (R35, R412). -/
def executeCall (s : State) : Reply State :=
  match cycle s with
  | .next t => .done t
  | .fault (.unknownInstruction bytes pc) => .failed ⟨bytes, pc⟩ (afterFault ⟨bytes, pc⟩ s)
  | .fault (.faulted _ _) => .stuck
  | .refused _ => .stuck

/-- The host operations that can change the engine. -/
inductive HostOp where
  | execute
  | reset
  | clear
  | load (origin : Word) (bytes : List Byte)
  | register (slot : Nat) (d : Device)
  | request
  | poke (a : Word) (v : Byte)
deriving DecidableEq, Repr

/-- An engine in its host's hands; `started` says that `execute()` has ever been called on it, after which no device is bound (R444, U12);
nothing sets it back (log 18). -/
structure Session where
  engine : State
  started : Bool
deriving DecidableEq, Repr

/-- A newly made engine. -/
def Session.new (p : Params) : Session := ⟨construct p, false⟩

/-- One host operation, between two steps (R7, D28). DESIGN CHOICE (log 18): `started` outlasts `reset()` and `clear()`, so that a registration
after the first `execute()` is refused also when `clear()` came between; the boot sequence of R445 does not say whether a `clear()` of an
engine that has already executed opens registration again. -/
def Session.apply (op : HostOp) (h : Session) : Reply Session :=
  match op with
  | .execute =>
    match executeCall h.engine with
    | .done t => .done ⟨t, true⟩
    | .failed r t => .failed r ⟨t, true⟩
    | .refused => .refused
    | .stuck => .stuck
  | .reset => .done { h with engine := hostReset h.engine }
  | .clear => .done { h with engine := hostClear h.engine }
  | .load origin bytes => .done { h with engine := loadProgram origin bytes h.engine }
  | .register slot d =>
    if h.started then .refused
    else
      match registerPeripheral slot d h.engine with
      | some t => .done { h with engine := t }
      | none => .refused
  | .request => .done { h with engine := raiseRequest h.engine }
  | .poke a v => .done { h with engine := debugWrite a v h.engine }

end Sys2Proof.Machine
end

