-- ==== Sys2Proof/Safety.lean ====
section
/-! DEFINITION. What counts as a safe state, and the words the statements use: frames, and the spec's closed forms of results and flags
written as exact arithmetic, apart from the model's own bit operations. -/

namespace Sys2Proof.Machine

/-! ## The invariant and the states a host can reach -/

/-- The invariant every step keeps: Memory in its canonical form, and no fault record on an engine that goes on (20_memory.md R50,
10_state.md R35). -/
def Inv (s : State) : Prop := memWf s.mem = true ∧ s.fault = none

/-- The states of an engine with the parameters `p` between two host calls (70_reset_and_hazards.md R445, R450), the faulted engine of R412
among them: every host operation stays available on it, and only `execute()` gives it no next state (log 9, 11, 19). -/
inductive Reachable (p : Params) : State → Prop where
  | made : Reachable p (construct p)
  | stepped (s t : State) : Reachable p s → step s = .next t → Reachable p t
  | wasReset (s : State) : Reachable p s → Reachable p (hostReset s)
  | wasCleared (s : State) : Reachable p s → Reachable p (hostClear s)
  | loaded (s : State) (origin : Word) (bytes : List Byte) : Reachable p s → Reachable p (loadProgram origin bytes s)
  | bound (s t : State) (slot : Nat) (d : Device) : Reachable p s → registerPeripheral slot d s = some t → Reachable p t
  | requested (s : State) : Reachable p s → Reachable p (raiseRequest s)
  | poked (s : State) (a : Word) (v : Byte) : Reachable p s → Reachable p (debugWrite a v s)
  | faulted (s t : State) (r : FaultRecord) : Reachable p s → executeCall s = .failed r t → Reachable p t

/-! ## Memory frames -/

/-- One byte stored at `a`, every other byte as before. -/
def ByteStored (s t : State) (a : Word) (v : Byte) : Prop :=
  read8 t a = v ∧ ∀ b, b ≠ a → read8 t b = read8 s b

/-- A little-endian word stored at `a`, every other byte as before (20_memory.md R53). -/
def WordStored (s t : State) (a v : Word) : Prop :=
  read8 t a = BitVec.ofNat 8 v.toNat ∧ read8 t (a + 1) = BitVec.ofNat 8 (v.toNat / 256) ∧
  ∀ b, b ≠ a → b ≠ a + 1 → read8 t b = read8 s b

/-- The little-endian word at `a` (20_memory.md R52). -/
def wordAt (s : State) (a : Word) : Word := BitVec.ofNat 16 ((read8 s a).toNat + 256 * (read8 s (a + 1)).toNat)

/-! ## Address arithmetic -/

/-- A 16-bit value moved by a signed byte, mod 65536: `EA(d)` (46_ddfd_indexed.md R281) and the target of a relative jump
(30_encoding.md R101). -/
def moved (w : Word) (d : Byte) : Word := BitVec.ofInt 16 ((w.toNat : Int) + d.toInt)

/-! ## Flags in exact arithmetic -/

/-- A signed result that does not fit in `w` bits. -/
def overflows (w : Nat) (n : Int) : Bool := decide (n < -(2 ^ (w - 1)) ∨ (2 ^ (w - 1) : Int) ≤ n)

/-- The flags of `a + b + c` (40_alu_flags.md R121, R123): `half` is 4 or 12, and P/V says that the signed sum does not fit. -/
def sumFlags {w : Nat} (half : Nat) (a b : BitVec w) (c : Bool) : AluFlags :=
  let sum := a.toNat + b.toNat + c.toNat
  { s := decide (2 ^ (w - 1) ≤ sum % 2 ^ w)
    z := decide (sum % 2 ^ w = 0)
    h := decide (2 ^ half ≤ a.toNat % 2 ^ half + b.toNat % 2 ^ half + c.toNat)
    pv := overflows w (a.toInt + b.toInt + c.toNat)
    n := false
    c := decide (2 ^ w ≤ sum) }

/-- `a + b + c` mod `2^w`. -/
def sumResult {w : Nat} (a b : BitVec w) (c : Bool) : BitVec w := BitVec.ofNat w (a.toNat + b.toNat + c.toNat)

/-- `a - b - c` as an integer. -/
def difference {w : Nat} (a b : BitVec w) (c : Bool) : Int := (a.toNat : Int) - b.toNat - c.toNat

/-- The flags of `a - b - c` (the closed forms of 40_alu_flags.md R122, R124): H is the borrow into the upper part under `borrow` and its
complement under `literal`; C is the borrow. -/
def differenceFlags {w : Nat} (policy : HalfPolicy) (half : Nat) (a b : BitVec w) (c : Bool) : AluFlags :=
  let hb := decide (a.toNat % 2 ^ half < b.toNat % 2 ^ half + c.toNat)
  { s := decide (2 ^ (w - 1) ≤ difference a b c % 2 ^ w)
    z := decide (difference a b c % 2 ^ w = 0)
    h := match policy with
      | .literal => !hb
      | .borrow => hb
    pv := overflows w (a.toInt - b.toInt - c.toNat)
    n := true
    c := decide (difference a b c < 0) }

/-- `a - b - c` mod `2^w`. -/
def differenceResult {w : Nat} (a b : BitVec w) (c : Bool) : BitVec w := BitVec.ofInt w (difference a b c)

/-- An even number of the eight bits is 1 (40_alu_flags.md R139). -/
def evenOnes (v : Byte) : Bool := ((List.range 8).countP fun k => v.getLsbD k) % 2 == 0

/-- S, Z and even parity of a result, with the other three flags given (R126, R129). -/
def resultFlags (r : Byte) (h c : Bool) : AluFlags :=
  { s := decide (128 ≤ r.toNat), z := decide (r.toNat = 0), h := h, pv := evenOnes r, n := false, c := c }

/-! ## Operands of the accumulator instructions -/

/-- The four places an accumulator instruction takes its operand from: a register, the byte at HL, an immediate, the byte at XY + d. -/
inductive Operand8 where
  | reg (r : Reg8)
  | atHL
  | imm (n : Byte)
  | atXY (x : Index) (d : Byte)
deriving DecidableEq, Repr

/-- The value of the operand. -/
def Operand8.value (s : State) : Operand8 → Byte
  | .reg r => reg8 s r
  | .atHL => read8 s s.hl
  | .imm n => n
  | .atXY x d => read8 s (moved (index s x) d)

/-- ADD A,x. -/
def addForm : Operand8 → Instr
  | .reg r => .addAR r
  | .atHL => .addAHL
  | .imm n => .addAN n
  | .atXY x d => .addAXYd x d

/-- ADC A,x. -/
def adcForm : Operand8 → Instr
  | .reg r => .adcAR r
  | .atHL => .adcAHL
  | .imm n => .adcAN n
  | .atXY x d => .adcAXYd x d

/-- SUB A,x. -/
def subForm : Operand8 → Instr
  | .reg r => .subAR r
  | .atHL => .subAHL
  | .imm n => .subAN n
  | .atXY x d => .subAXYd x d

/-- SBC A,x. -/
def sbcForm : Operand8 → Instr
  | .reg r => .sbcAR r
  | .atHL => .sbcAHL
  | .imm n => .sbcAN n
  | .atXY x d => .sbcAXYd x d

/-- CP A,x. -/
def cpForm : Operand8 → Instr
  | .reg r => .cpAR r
  | .atHL => .cpAHL
  | .imm n => .cpAN n
  | .atXY x d => .cpAXYd x d

/-- AND A,x. -/
def andForm : Operand8 → Instr
  | .reg r => .andAR r
  | .atHL => .andAHL
  | .imm n => .andAN n
  | .atXY x d => .andAXYd x d

/-- XOR A,x. -/
def xorForm : Operand8 → Instr
  | .reg r => .xorAR r
  | .atHL => .xorAHL
  | .imm n => .xorAN n
  | .atXY x d => .xorAXYd x d

/-- OR A,x. -/
def orForm : Operand8 → Instr
  | .reg r => .orAR r
  | .atHL => .orAHL
  | .imm n => .orAN n
  | .atXY x d => .orAXYd x d

/-! ## Rotates and shifts -/

/-- The eight operations of 30_encoding.md section 5.2. -/
inductive ShiftOp where
  | rlc | rrc | rl | rr | sla | sra | sll | srl
deriving DecidableEq, Repr

/-- The operation number o, the y field of the second byte (40_alu_flags.md R130 to R137, 30_encoding.md R84). -/
def ShiftOp.number : ShiftOp → Nat
  | .rlc => 0
  | .rrc => 1
  | .rl => 2
  | .rr => 3
  | .sla => 4
  | .sra => 5
  | .sll => 6
  | .srl => 7

/-- The result in exact arithmetic (40_alu_flags.md R130 to R137): left operations double, right operations halve. -/
def ShiftOp.result (op : ShiftOp) (v : Byte) (c : Bool) : Byte :=
  match op with
  | .rlc => BitVec.ofNat 8 (2 * v.toNat + v.toNat / 128)
  | .rrc => BitVec.ofNat 8 (v.toNat / 2 + 128 * (v.toNat % 2))
  | .rl => BitVec.ofNat 8 (2 * v.toNat + c.toNat)
  | .rr => BitVec.ofNat 8 (v.toNat / 2 + 128 * c.toNat)
  | .sla => BitVec.ofNat 8 (2 * v.toNat)
  | .sra => BitVec.ofInt 8 (v.toInt / 2)
  | .sll => BitVec.ofNat 8 (2 * v.toNat + 1)
  | .srl => BitVec.ofNat 8 (v.toNat / 2)

/-- The ejected bit: bit 7 of a left operation, bit 0 of a right one (R129). -/
def ShiftOp.ejected (op : ShiftOp) (v : Byte) : Bool :=
  match op with
  | .rlc | .rl | .sla | .sll => decide (128 ≤ v.toNat)
  | .rrc | .rr | .sra | .srl => decide (v.toNat % 2 = 1)

/-- The operation on a register. -/
def ShiftOp.onReg (op : ShiftOp) (r : Reg8) : Instr :=
  match op with
  | .rlc => .rlcR r
  | .rrc => .rrcR r
  | .rl => .rlR r
  | .rr => .rrR r
  | .sla => .slaR r
  | .sra => .sraR r
  | .sll => .sllR r
  | .srl => .srlR r

/-- The operation on the byte at HL. -/
def ShiftOp.onHL (op : ShiftOp) : Instr :=
  match op with
  | .rlc => .rlcHL
  | .rrc => .rrcHL
  | .rl => .rlHL
  | .rr => .rrHL
  | .sla => .slaHL
  | .sra => .sraHL
  | .sll => .sllHL
  | .srl => .srlHL

/-- The operation on the byte at XY + d. -/
def ShiftOp.onXY (op : ShiftOp) (x : Index) (d : Byte) : Instr :=
  match op with
  | .rlc => .rlcXYd x d
  | .rrc => .rrcXYd x d
  | .rl => .rlXYd x d
  | .rr => .rrXYd x d
  | .sla => .slaXYd x d
  | .sra => .sraXYd x d
  | .sll => .sllXYd x d
  | .srl => .srlXYd x d

/-! ## What a group of instructions does -/

/-- `i` completes, register `r` becomes `v`, and nothing else changes. -/
def LoadsReg (i : Instr) (s : State) (r : Reg8) (v : Byte) : Prop :=
  ∃ t, exec i s = .next t ∧ reg8 t r = v ∧ (∀ q, q ≠ r → reg8 t q = reg8 s q) ∧
    t = { s with a := t.a, bc := t.bc, de := t.de, hl := t.hl }

/-- `i` completes, the byte at `a` becomes `v`, and nothing else changes. -/
def StoresByte (i : Instr) (s : State) (a : Word) (v : Byte) : Prop :=
  ∃ t, exec i s = .next t ∧ ByteStored s t a v ∧ t = { s with mem := t.mem }

/-- `i` completes, the word at `a` becomes `v`, and nothing else changes. -/
def StoresWord (i : Instr) (s : State) (a v : Word) : Prop :=
  ∃ t, exec i s = .next t ∧ WordStored s t a v ∧ t = { s with mem := t.mem }

/-- `i` completes, pair `p` becomes `v`, and nothing else changes. -/
def LoadsPair (i : Instr) (s : State) (p : Pair) (v : Word) : Prop :=
  ∃ t, exec i s = .next t ∧ pair t p = v ∧ (∀ q, q ≠ p → pair t q = pair s q) ∧
    t = { s with bc := t.bc, de := t.de, hl := t.hl, sp := t.sp }

/-- `i` completes, the index register `x` becomes `v`, and nothing else changes. -/
def LoadsIndex (i : Instr) (s : State) (x : Index) (v : Word) : Prop :=
  ∃ t, exec i s = .next t ∧ index t x = v ∧ (∀ y, y ≠ x → index t y = index s y) ∧
    t = { s with ix := t.ix, iy := t.iy }

/-- `i` completes, A and the six modelled flags become as given (bits 5 and 3 of F are free), and nothing else changes. -/
def SetsAcc (i : Instr) (s : State) (v : Byte) (fl : AluFlags) : Prop :=
  ∃ t, exec i s = .next t ∧ t.f.six = fl ∧ t = { s with a := v, f := t.f, draws := t.draws }

/-- `i` completes, register `r` and the six modelled flags become as given, and nothing else changes. -/
def SetsReg (i : Instr) (s : State) (r : Reg8) (v : Byte) (fl : AluFlags) : Prop :=
  ∃ t, exec i s = .next t ∧ t.f.six = fl ∧ reg8 t r = v ∧ (∀ q, q ≠ r → reg8 t q = reg8 s q) ∧
    t = { s with a := t.a, bc := t.bc, de := t.de, hl := t.hl, f := t.f, draws := t.draws }

/-- `i` completes, the byte at `a` and the six modelled flags become as given, and nothing else changes. -/
def SetsByte (i : Instr) (s : State) (a : Word) (v : Byte) (fl : AluFlags) : Prop :=
  ∃ t, exec i s = .next t ∧ t.f.six = fl ∧ ByteStored s t a v ∧
    t = { s with mem := t.mem, f := t.f, draws := t.draws }

/-- `i` completes and only PC changes. -/
def JumpsTo (i : Instr) (s : State) (target : Word) : Prop := exec i s = .next { s with pc := target }

/-- `i` completes, pushes `v` at SP - 2, sets PC to `target`, and nothing else changes. -/
def PushesAndJumps (i : Instr) (s : State) (v target : Word) : Prop :=
  ∃ t, exec i s = .next t ∧ WordStored s t (s.sp - 2) v ∧ t = { s with sp := s.sp - 2, mem := t.mem, pc := target }

/-! ## Ports -/

/-- `port >> 4` (20_memory.md R57). -/
def slotNumber (port : Byte) : Fin 16 := ⟨port.toNat / 16, by omega⟩

/-- `port & 0xF` (R57). -/
def subNumber (port : Byte) : BitVec 4 := BitVec.ofNat 4 (port.toNat % 16)

/-- What one `ioRead(port)` that answers `v` does to the device table and the latch (R58, R60): an unbound slot answers 0 and nothing
happens; a bound device gets one `read(sub)`, gives the next answer of its script (any byte when the script is used up), and may set
the latch. -/
def PortRead (s t : State) (port v : Byte) : Prop :=
  match s.slots.get (slotNumber port) with
  | none => v = 0 ∧ t.slots = s.slots ∧ t.irqPending = s.irqPending
  | some d =>
    ∃ raised : Bool,
      (∀ ans rest, d.script = ans :: rest → v = ans.byte ∧ raised = ans.raisesIrq) ∧
      t.irqPending = (s.irqPending || raised) ∧
      t.slots.get (slotNumber port) = some ⟨d.script.tail, .read (subNumber port) v :: d.calls⟩ ∧
      ∀ k, k ≠ slotNumber port → t.slots.get k = s.slots.get k

/-- What one `ioWrite(port, v)` does to the device table and the latch (R59, R60). -/
def PortWrite (s t : State) (port v : Byte) : Prop :=
  match s.slots.get (slotNumber port) with
  | none => t.slots = s.slots ∧ t.irqPending = s.irqPending
  | some d =>
    ∃ raised : Bool,
      (∀ ans rest, d.script = ans :: rest → raised = ans.raisesIrq) ∧
      t.irqPending = (s.irqPending || raised) ∧
      t.slots.get (slotNumber port) = some ⟨d.script.tail, .write (subNumber port) v :: d.calls⟩ ∧
      ∀ k, k ≠ slotNumber port → t.slots.get k = s.slots.get k

/-! ## Which instructions touch what -/

/-- The addresses an instruction stores to, from the state its operation starts in (20_memory.md R55, R66, and the rule of each instruction). -/
def storedAt (s : State) : Instr → List Word
  | .ldRR _ _ => []
  | .ldRHL _ => []
  | .ldHLR _ => [s.hl]
  | .ldRN _ _ => []
  | .ldHLN _ => [s.hl]
  | .ldDdNN _ _ => []
  | .ldSPHL => []
  | .push _ => [s.sp - 1, s.sp - 2]
  | .pop _ => []
  | .exDEHL => []
  | .exAFAF => []
  | .exx => []
  | .exSPHL => [s.sp, s.sp + 1]
  | .addAR _ => []
  | .addAHL => []
  | .addAN _ => []
  | .adcAR _ => []
  | .adcAHL => []
  | .adcAN _ => []
  | .subAR _ => []
  | .subAHL => []
  | .subAN _ => []
  | .sbcAR _ => []
  | .sbcAHL => []
  | .sbcAN _ => []
  | .andAR _ => []
  | .andAHL => []
  | .andAN _ => []
  | .xorAR _ => []
  | .xorAHL => []
  | .xorAN _ => []
  | .orAR _ => []
  | .orAHL => []
  | .orAN _ => []
  | .cpAR _ => []
  | .cpAHL => []
  | .cpAN _ => []
  | .incR _ => []
  | .incHL => [s.hl]
  | .decR _ => []
  | .decHL => [s.hl]
  | .incSS _ => []
  | .decSS _ => []
  | .addHLSS _ => []
  | .jpNN _ => []
  | .jpCcNN _ _ => []
  | .jrE _ => []
  | .jrCcE _ _ => []
  | .callNN _ => [s.sp - 1, s.sp - 2]
  | .callCcNN cc _ => if condHolds s.f cc then [s.sp - 1, s.sp - 2] else []
  | .ret => []
  | .retCc _ => []
  | .rst _ => [s.sp - 1, s.sp - 2]
  | .inAN _ => []
  | .outNA _ => []
  | .ei => []
  | .di => []
  | .halt => []
  | .rlcR _ => []
  | .rlcHL => [s.hl]
  | .rrcR _ => []
  | .rrcHL => [s.hl]
  | .rlR _ => []
  | .rlHL => [s.hl]
  | .rrR _ => []
  | .rrHL => [s.hl]
  | .slaR _ => []
  | .slaHL => [s.hl]
  | .sraR _ => []
  | .sraHL => [s.hl]
  | .sllR _ => []
  | .sllHL => [s.hl]
  | .srlR _ => []
  | .srlHL => [s.hl]
  | .bitR _ _ => []
  | .bitHL _ => []
  | .resR _ _ => []
  | .resHL _ => [s.hl]
  | .setR _ _ => []
  | .setHL _ => [s.hl]
  | .adcHLSS _ => []
  | .sbcHLSS _ => []
  | .ldMemDd nn _ => [nn, nn + 1]
  | .ldDdMem _ _ => []
  | .inRC _ => []
  | .outCR _ => []
  | .addXY _ _ => []
  | .incXY _ => []
  | .decXY _ => []
  | .ldXYNN _ _ => []
  | .ldRXYd _ _ _ => []
  | .ldXYdR x d _ => [effAddr s x d]
  | .addAXYd _ _ => []
  | .subAXYd _ _ => []
  | .andAXYd _ _ => []
  | .xorAXYd _ _ => []
  | .orAXYd _ _ => []
  | .cpAXYd _ _ => []
  | .rlcXYd x d => [effAddr s x d]
  | .rrcXYd x d => [effAddr s x d]
  | .rlXYd x d => [effAddr s x d]
  | .rrXYd x d => [effAddr s x d]
  | .slaXYd x d => [effAddr s x d]
  | .sraXYd x d => [effAddr s x d]
  | .sllXYd x d => [effAddr s x d]
  | .srlXYd x d => [effAddr s x d]
  | .bitXYd _ _ _ => []
  | .resXYd x _ d => [effAddr s x d]
  | .setXYd x _ d => [effAddr s x d]
  | .nop => []
  | .ldBCA => [s.bc]
  | .ldABC => []
  | .ldDEA => [s.de]
  | .ldADE => []
  | .ldMemHL nn => [nn, nn + 1]
  | .ldHLMem _ => []
  | .ldMemA nn => [nn]
  | .ldAMem _ => []
  | .rlca => []
  | .rrca => []
  | .rla => []
  | .rra => []
  | .djnz _ => []
  | .daa => []
  | .cpl => []
  | .scf => []
  | .ccf => []
  | .jpHL => []
  | .neg => []
  | .rrd => [s.hl]
  | .rld => [s.hl]
  | .ldi => [s.de]
  | .ldd => [s.de]
  | .ldir => [s.de]
  | .lddr => [s.de]
  | .cpi => []
  | .cpd => []
  | .cpir => []
  | .cpdr => []
  | .ini => [s.hl]
  | .ind => [s.hl]
  | .inir => [s.hl]
  | .indr => [s.hl]
  | .outi => []
  | .outd => []
  | .otir => []
  | .otdr => []
  | .ldMemXY nn _ => [nn, nn + 1]
  | .ldXYMem _ _ => []
  | .incXYd x d => [effAddr s x d]
  | .decXYd x d => [effAddr s x d]
  | .ldXYdN x d _ => [effAddr s x d]
  | .adcAXYd _ _ => []
  | .sbcAXYd _ _ => []
  | .popXY _ => []
  | .exSPXY _ => [s.sp, s.sp + 1]
  | .pushXY _ => [s.sp - 1, s.sp - 2]
  | .jpXY _ => []
  | .ldSPXY _ => []

/-- The instructions that compute flags: the rows of 10_state.md R28 above its last two. -/
def computesF : Instr → Bool
  | .addAR _ | .addAHL | .addAN _ | .adcAR _ | .adcAHL | .adcAN _ => true
  | .subAR _ | .subAHL | .subAN _ | .sbcAR _ | .sbcAHL | .sbcAN _ => true
  | .andAR _ | .andAHL | .andAN _ | .xorAR _ | .xorAHL | .xorAN _ => true
  | .orAR _ | .orAHL | .orAN _ | .cpAR _ | .cpAHL | .cpAN _ => true
  | .incR _ | .incHL | .decR _ | .decHL | .addHLSS _ | .rlcR _ => true
  | .rlcHL | .rrcR _ | .rrcHL | .rlR _ | .rlHL | .rrR _ => true
  | .rrHL | .slaR _ | .slaHL | .sraR _ | .sraHL | .sllR _ => true
  | .sllHL | .srlR _ | .srlHL | .bitR _ _ | .bitHL _ | .adcHLSS _ => true
  | .sbcHLSS _ | .inRC _ | .addXY _ _ | .addAXYd _ _ | .subAXYd _ _ | .andAXYd _ _ => true
  | .xorAXYd _ _ | .orAXYd _ _ | .cpAXYd _ _ | .rlcXYd _ _ | .rrcXYd _ _ | .rlXYd _ _ => true
  | .rrXYd _ _ | .slaXYd _ _ | .sraXYd _ _ | .sllXYd _ _ | .srlXYd _ _ | .bitXYd _ _ _ => true
  | .rlca | .rrca | .rla | .rra | .daa | .cpl => true
  | .scf | .ccf | .neg | .rrd | .rld | .ldi => true
  | .ldd | .ldir | .lddr | .cpi | .cpd | .cpir => true
  | .cpdr | .ini | .ind | .inir | .indr | .outi => true
  | .outd | .otir | .otdr | .incXYd _ _ | .decXYd _ _ | .adcAXYd _ _ => true
  | .sbcAXYd _ _ => true
  | .ldRR _ _ | .ldRHL _ | .ldHLR _ | .ldRN _ _ | .ldHLN _ | .ldDdNN _ _ => false
  | .ldSPHL | .push _ | .pop _ | .exDEHL | .exAFAF | .exx => false
  | .exSPHL | .incSS _ | .decSS _ | .jpNN _ | .jpCcNN _ _ | .jrE _ => false
  | .jrCcE _ _ | .callNN _ | .callCcNN _ _ | .ret | .retCc _ | .rst _ => false
  | .inAN _ | .outNA _ | .ei | .di | .halt | .resR _ _ => false
  | .resHL _ | .setR _ _ | .setHL _ | .ldMemDd _ _ | .ldDdMem _ _ | .outCR _ => false
  | .incXY _ | .decXY _ | .ldXYNN _ _ | .ldRXYd _ _ _ | .ldXYdR _ _ _ | .resXYd _ _ _ => false
  | .setXYd _ _ _ | .nop | .ldBCA | .ldABC | .ldDEA | .ldADE => false
  | .ldMemHL _ | .ldHLMem _ | .ldMemA _ | .ldAMem _ | .djnz _ | .jpHL => false
  | .ldMemXY _ _ | .ldXYMem _ _ | .ldXYdN _ _ _ | .popXY _ | .exSPXY _ | .pushXY _ => false
  | .jpXY _ | .ldSPXY _ => false

/-- The instructions that do not always fall through: jumps, calls, returns, restarts and the repeating block instructions
(49_disassembler.md R398). -/
def setsPc : Instr → Bool
  | .ldir | .lddr | .cpir | .cpdr | .inir | .indr => true
  | .otir | .otdr | .jpNN _ | .jpCcNN _ _ | .jrE _ | .jrCcE _ _ => true
  | .callNN _ | .callCcNN _ _ | .ret | .retCc _ | .rst _ | .djnz _ => true
  | .jpHL | .jpXY _ => true
  | .addAR _ | .addAHL | .addAN _ | .adcAR _ | .adcAHL | .adcAN _ => false
  | .subAR _ | .subAHL | .subAN _ | .sbcAR _ | .sbcAHL | .sbcAN _ => false
  | .andAR _ | .andAHL | .andAN _ | .xorAR _ | .xorAHL | .xorAN _ => false
  | .orAR _ | .orAHL | .orAN _ | .cpAR _ | .cpAHL | .cpAN _ => false
  | .incR _ | .incHL | .decR _ | .decHL | .addHLSS _ | .rlcR _ => false
  | .rlcHL | .rrcR _ | .rrcHL | .rlR _ | .rlHL | .rrR _ => false
  | .rrHL | .slaR _ | .slaHL | .sraR _ | .sraHL | .sllR _ => false
  | .sllHL | .srlR _ | .srlHL | .bitR _ _ | .bitHL _ | .adcHLSS _ => false
  | .sbcHLSS _ | .inRC _ | .addXY _ _ | .addAXYd _ _ | .subAXYd _ _ | .andAXYd _ _ => false
  | .xorAXYd _ _ | .orAXYd _ _ | .cpAXYd _ _ | .rlcXYd _ _ | .rrcXYd _ _ | .rlXYd _ _ => false
  | .rrXYd _ _ | .slaXYd _ _ | .sraXYd _ _ | .sllXYd _ _ | .srlXYd _ _ | .bitXYd _ _ _ => false
  | .rlca | .rrca | .rla | .rra | .daa | .cpl => false
  | .scf | .ccf | .neg | .rrd | .rld | .ldi => false
  | .ldd | .cpi | .cpd | .ini | .ind | .outi => false
  | .outd | .incXYd _ _ | .decXYd _ _ | .adcAXYd _ _ | .sbcAXYd _ _ | .ldRR _ _ => false
  | .ldRHL _ | .ldHLR _ | .ldRN _ _ | .ldHLN _ | .ldDdNN _ _ | .ldSPHL => false
  | .push _ | .pop _ | .exDEHL | .exAFAF | .exx | .exSPHL => false
  | .incSS _ | .decSS _ | .inAN _ | .outNA _ | .ei | .di => false
  | .halt | .resR _ _ | .resHL _ | .setR _ _ | .setHL _ | .ldMemDd _ _ => false
  | .ldDdMem _ _ | .outCR _ | .incXY _ | .decXY _ | .ldXYNN _ _ | .ldRXYd _ _ _ => false
  | .ldXYdR _ _ _ | .resXYd _ _ _ | .setXYd _ _ _ | .nop | .ldBCA | .ldABC => false
  | .ldDEA | .ldADE | .ldMemHL _ | .ldHLMem _ | .ldMemA _ | .ldAMem _ => false
  | .ldMemXY _ _ | .ldXYMem _ _ | .ldXYdN _ _ _ | .popXY _ | .exSPXY _ | .pushXY _ => false
  | .ldSPXY _ => false

/-- The bytes that have a row after `DD` or `FD` under some setting of `IMPL2`, and `CB`, which leads to the nested table
(30_encoding.md R86 and section 5.4). -/
def indexedSubOpcodes : List Byte :=
  [0x09, 0x19, 0x21, 0x22, 0x23, 0x29, 0x2A, 0x2B, 0x34, 0x35, 0x36, 0x39, 0x46, 0x4E, 0x56, 0x5E, 0x66, 0x6E, 0x70, 0x71,
    0x72, 0x73, 0x74, 0x75, 0x77, 0x7E, 0x86, 0x8E, 0x96, 0x9E, 0xA6, 0xAE, 0xB6, 0xBE, 0xCB, 0xE1, 0xE3, 0xE5, 0xE9, 0xF9]

/-- The port an instruction reads or writes: the instructions of 20_memory.md R57. -/
def portOf (s : State) : Instr → Option Byte
  | .inAN n => some n
  | .outNA n => some n
  | .inRC _ => some (reg8 s .c)
  | .outCR _ => some (reg8 s .c)
  | .ini => some (reg8 s .c)
  | .ind => some (reg8 s .c)
  | .inir => some (reg8 s .c)
  | .indr => some (reg8 s .c)
  | .outi => some (reg8 s .c)
  | .outd => some (reg8 s .c)
  | .otir => some (reg8 s .c)
  | .otdr => some (reg8 s .c)
  | .ldRR _ _ | .ldRHL _ | .ldHLR _ | .ldRN _ _ | .ldHLN _ | .ldDdNN _ _ => none
  | .ldSPHL | .push _ | .pop _ | .exDEHL | .exAFAF | .exx => none
  | .exSPHL | .addAR _ | .addAHL | .addAN _ | .adcAR _ | .adcAHL => none
  | .adcAN _ | .subAR _ | .subAHL | .subAN _ | .sbcAR _ | .sbcAHL => none
  | .sbcAN _ | .andAR _ | .andAHL | .andAN _ | .xorAR _ | .xorAHL => none
  | .xorAN _ | .orAR _ | .orAHL | .orAN _ | .cpAR _ | .cpAHL => none
  | .cpAN _ | .incR _ | .incHL | .decR _ | .decHL | .incSS _ => none
  | .decSS _ | .addHLSS _ | .jpNN _ | .jpCcNN _ _ | .jrE _ | .jrCcE _ _ => none
  | .callNN _ | .callCcNN _ _ | .ret | .retCc _ | .rst _ | .ei => none
  | .di | .halt | .rlcR _ | .rlcHL | .rrcR _ | .rrcHL => none
  | .rlR _ | .rlHL | .rrR _ | .rrHL | .slaR _ | .slaHL => none
  | .sraR _ | .sraHL | .sllR _ | .sllHL | .srlR _ | .srlHL => none
  | .bitR _ _ | .bitHL _ | .resR _ _ | .resHL _ | .setR _ _ | .setHL _ => none
  | .adcHLSS _ | .sbcHLSS _ | .ldMemDd _ _ | .ldDdMem _ _ | .addXY _ _ | .incXY _ => none
  | .decXY _ | .ldXYNN _ _ | .ldRXYd _ _ _ | .ldXYdR _ _ _ | .addAXYd _ _ | .subAXYd _ _ => none
  | .andAXYd _ _ | .xorAXYd _ _ | .orAXYd _ _ | .cpAXYd _ _ | .rlcXYd _ _ | .rrcXYd _ _ => none
  | .rlXYd _ _ | .rrXYd _ _ | .slaXYd _ _ | .sraXYd _ _ | .sllXYd _ _ | .srlXYd _ _ => none
  | .bitXYd _ _ _ | .resXYd _ _ _ | .setXYd _ _ _ | .nop | .ldBCA | .ldABC => none
  | .ldDEA | .ldADE | .ldMemHL _ | .ldHLMem _ | .ldMemA _ | .ldAMem _ => none
  | .rlca | .rrca | .rla | .rra | .djnz _ | .daa => none
  | .cpl | .scf | .ccf | .jpHL | .neg | .rrd => none
  | .rld | .ldi | .ldd | .ldir | .lddr | .cpi => none
  | .cpd | .cpir | .cpdr | .ldMemXY _ _ | .ldXYMem _ _ | .incXYd _ _ => none
  | .decXYd _ _ | .ldXYdN _ _ _ | .adcAXYd _ _ | .sbcAXYd _ _ | .popXY _ | .exSPXY _ => none
  | .pushXY _ | .jpXY _ | .ldSPXY _ => none

end Sys2Proof.Machine
end

