-- ==== Sys2Proof/Certificates/Slice0/Obligations.lean ====
section
/-! DEFINITION. The statements for the provers. Every docstring names the rules of spec/ its statement follows. Bits 5 and 3 of F, and every
other `undef1()` draw, are left free in all of them. -/

open Sys2Proof Sys2Proof.Machine

/-! ## Encoding, decoding, disassembly -/

/-- Words written out from the spec's encodings decode to the instructions they stand for, one of each table (30_encoding.md section 5;
R153, R249, R267, R287 and its source example, R302, R324). -/
def Obligations.WrittenWordsDecode : Prop :=
  decode [] ⟨0x3E, 0x05, 0x00, 0x00⟩ = .row (.ldRN .a 0x05) ∧
  decode [] ⟨0xCB, 0x26, 0x00, 0x00⟩ = .row .slaHL ∧
  decode [] ⟨0xED, 0x53, 0x34, 0x12⟩ = .row (.ldMemDd 0x1234 .de) ∧
  decode [] ⟨0xDD, 0x77, 0x02, 0x00⟩ = .row (.ldXYdR .ix 0x02 .a) ∧
  decode [] ⟨0xFD, 0xCB, 0x04, 0x46⟩ = .row (.bitXYd .iy 0 0x04) ∧
  decode [.djnz] ⟨0x10, 0xFE, 0x00, 0x00⟩ = .row (.djnz 0xFE)

/-- Decoding the bytes of a well-formed instruction, whatever bytes follow, gives that instruction with every operand: no bit of an
encoding is dropped (30_encoding.md sections 2 to 5). -/
def Obligations.DecodeOfEncode : Prop :=
  ∀ (impl2 : List Tier2Row) (i : Instr) (rest : List Byte),
    i.wellFormed impl2 = true → decode impl2 (windowOf (encode i ++ rest)) = .row i

/-- Every window that decodes to a row holds exactly that row's bytes in front, and the row is one the gate lets in: each word has one
meaning, and no reserved encoding falls through to a neighbour (R103, R104). -/
def Obligations.EncodeOfDecode : Prop :=
  ∀ (impl2 : List Tier2Row) (w : Window) (i : Instr),
    decode impl2 w = .row i →
      i.wellFormed impl2 = true ∧ encode i = w.bytes.take i.length ∧ i.length ≤ 4

/-- What an unknown encoding reports (R88, R411): one byte for a tier-2 opcode that is not in `IMPL2`, two after `ED` and after `DD`/`FD`,
four in the nested table when `b3[2:0]` is not 6; a CB-prefixed window always has a row. -/
def Obligations.UnknownReportsBytesExamined : Prop :=
  ∀ (impl2 : List Tier2Row) (w : Window) (bytes : List Byte),
    decode impl2 w = .unknown bytes →
      (bytes = [w.b0] ∧ w.b0 ∉ [0xCB, 0xDD, 0xED, 0xFD] ∧
        ∃ i row, baseRow w.b0 w.b1 w.b2 = some i ∧ i.tier2Row = some row ∧ row ∉ impl2) ∨
      (bytes = [w.b0, w.b1] ∧ (w.b0 = 0xED ∨ ((w.b0 = 0xDD ∨ w.b0 = 0xFD) ∧ w.b1 ≠ 0xCB))) ∨
      (bytes = [w.b0, w.b1, w.b2, w.b3] ∧ (w.b0 = 0xDD ∨ w.b0 = 0xFD) ∧ w.b1 = 0xCB ∧ w.b3.toNat % 8 ≠ 6)

/-- Tier 3 (R375, R104, R86): RETN, RETI, IM, the I and R loads, IN (C), OUT (C),0, the mirrors, the two-byte no-operations and every other
ED sub-opcode without a row, every byte after DD or FD that section 5.4 gives no row, 216 of them (the halves of IX and IY, another prefix,
any base opcode without an indexed form), and the register-copy forms never decode, whatever `IMPL2` is. -/
def Obligations.TierThreeNeverDecodes : Prop :=
  ∀ (impl2 : List Tier2Row) (w : Window),
    (w.b0 = 0xED →
      (w.b1.toNat < 0x40 ∨ 0x80 ≤ w.b1.toNat ∧ w.b1.toNat < 0xA0 ∨ 0xC0 ≤ w.b1.toNat ∨
        (0xA0 ≤ w.b1.toNat ∧ w.b1.toNat < 0xC0 ∧ 4 ≤ w.b1.toNat % 8) ∨
        w.b1 ∈ [0x45, 0x4D, 0x46, 0x56, 0x5E, 0x47, 0x4F, 0x57, 0x5F, 0x70, 0x71,
          0x4C, 0x54, 0x5C, 0x64, 0x6C, 0x74, 0x7C, 0x55, 0x5D, 0x65, 0x6D, 0x75, 0x7D, 0x4E, 0x66, 0x6E, 0x76, 0x7E, 0x77, 0x7F]) →
      decode impl2 w = .unknown [w.b0, w.b1]) ∧
    ((w.b0 = 0xDD ∨ w.b0 = 0xFD) →
      w.b1 ∉ indexedSubOpcodes →
      decode impl2 w = .unknown [w.b0, w.b1]) ∧
    ((w.b0 = 0xDD ∨ w.b0 = 0xFD) → w.b1 = 0xCB → w.b3.toNat % 8 ≠ 6 →
      decode impl2 w = .unknown [w.b0, w.b1, w.b2, w.b3])

/-- The length invariant (R398): where the window at PC decodes to a row, the fetch one `Fetch8()` at a time reads exactly the bytes of the row,
and their number is the length the disassembler reports and the length of the row, whatever a branch then does; on an engine that is
RUNNING, not faulted and takes no interrupt the step is the row's operation on the state after those fetches; an instruction that
falls through leaves PC at its own address plus its length. -/
def Obligations.FetchedBytesEqualDisassembledLength : Prop :=
  ∀ (s : State) (i : Instr),
    decode s.params.impl2 (windowAt s s.pc) = .row i →
    (fetchInstr s).1 = encode i ∧ (fetchInstr s).1.length = (disassembleAt s s.pc).2 ∧ (disassembleAt s s.pc).2 = i.length ∧
    (fetchInstr s).2 = { s with pc := s.pc + BitVec.ofNat 16 i.length } ∧
    (s.fault = none → ¬(s.irqPending = true ∧ s.iff = true) → s.run = .running →
      step s = exec i (fetchInstr s).2 ∧
      (setsPc i = false → ∃ t, step s = .next t ∧ t.pc = s.pc + BitVec.ofNat 16 (disassembleAt s s.pc).2))

/-- Bytes past the reported length do not affect the disassembly, and the length is 1 to 4 (R399, R400, R81). -/
def Obligations.DisassemblyReadsOnlyItsLength : Prop :=
  ∀ (impl2 : List Tier2Row) (w v : Window),
    1 ≤ (disassemble impl2 w).2 ∧ (disassemble impl2 w).2 ≤ 4 ∧
    (v.bytes.take (disassemble impl2 w).2 = w.bytes.take (disassemble impl2 w).2 →
      disassemble impl2 v = disassemble impl2 w)

/-- The placeholders (R397): a window that selects no row prints the literal and the length of the table it failed in. The literals and
lengths are the spec's decision D13. -/
def Obligations.PlaceholderOfEachTable : Prop :=
  ∀ (impl2 : List Tier2Row) (w : Window) (bytes : List Byte),
    decode impl2 w = .unknown bytes →
      disassemble impl2 w =
        if w.b0 = 0xED then ("EXTD", 2)
        else if w.b0 = 0xDD ∨ w.b0 = 0xFD then (if w.b1 = 0xCB then ("BITS", 4) else ("INDX", 2))
        else ("UNKN", 1)

/-! ## Memory and the stack -/

/-- Memory (R51): a read returns the byte most recently written to that cell by a write, a debug write, a load or `clear()`; a write leaves
every other cell alone and keeps Memory canonical. The canonical form is the model's own (log 8). -/
def Obligations.MemoryReadsBackWrites : Prop :=
  ∀ (s : State) (a b : Word) (v : Byte),
    read8 (write8 a v s) b = (if b = a then v else read8 s b) ∧
    read8 (debugWrite a v s) b = (if b = a then v else read8 s b) ∧
    read8 (loadProgram a [v] s) b = (if b = a then v else read8 s b) ∧
    read8 (hostClear s) b = 0x00 ∧
    (memWf s.mem = true → memWf (write8 a v s).mem = true)

/-- The stack (R25, R66): after `Push16(v)` SP is 2 lower mod 65536 and the word at SP is `v`, the high byte in the cell above the low one;
`Pop16()` returns the word at SP, adds 2 to SP and erases nothing; a push at SP = 0 writes 0xFFFF and 0xFFFE and leaves SP = 0xFFFE. PUSH, CALL,
RST and the interrupt entry push so, POP and RET pop so. -/
def Obligations.PushThenPop : Prop :=
  ∀ (s : State) (v : Word),
    ((push16 v s).sp = s.sp - 2 ∧ WordStored s (push16 v s) (s.sp - 2) v ∧
      read16 (push16 v s) (push16 v s).sp = v ∧ push16 v s = { s with sp := s.sp - 2, mem := (push16 v s).mem }) ∧
    (popped s = wordAt s s.sp ∧ dropTop s = { s with sp := s.sp + 2 } ∧
      popped (push16 v s) = v ∧ (dropTop (push16 v s)).sp = s.sp) ∧
    (s.sp = 0 → (push16 v s).sp = 0xFFFE ∧
      read8 (push16 v s) 0xFFFF = BitVec.ofNat 8 (v.toNat / 256) ∧ read8 (push16 v s) 0xFFFE = BitVec.ofNat 8 v.toNat) ∧
    (∀ q, exec (.push q) s = .next (push16 (stackPair s q) s)) ∧ (∀ x, exec (.pushXY x) s = .next (push16 (index s x) s)) ∧
    exec (.callNN v) s = .next { push16 s.pc s with pc := v } ∧
    (∀ k : BitVec 3, exec (.rst k) s = .next { push16 s.pc s with pc := BitVec.ofNat 16 (8 * k.toNat) }) ∧
    ((takeInterrupt s).sp = (push16 s.pc s).sp ∧ (takeInterrupt s).mem = (push16 s.pc s).mem) ∧
    (∀ q, exec (.pop q) s = .next (setStackPair q (popped s) (dropTop s))) ∧
    (∀ x, exec (.popXY x) s = .next (setIndex x (popped s) (dropTop s))) ∧
    exec .ret s = .next { dropTop s with pc := popped s }

/-! ## The step -/

/-- A step runs the decoded instruction (R80, R102): on an engine that is not faulted, RUNNING and with no interrupt due, the step is `exec` of
the instruction the bytes at PC decode to, with PC already past all its bytes. -/
def Obligations.StepRunsDecodedInstruction : Prop :=
  ∀ (s : State) (i : Instr),
    s.fault = none → ¬(s.irqPending = true ∧ s.iff = true) → s.run = .running →
    decode s.params.impl2 (windowAt s s.pc) = .row i →
    step s = exec i { s with pc := s.pc + BitVec.ofNat 16 i.length }

/-- A step on bytes that select no row ends with `UnknownInstruction{opcode_bytes, pc}` (R411, R88): the bytes fetched and the address of the first
of them; the disassembler's length is their number (R397, D13). -/
def Obligations.StepOnUnknownBytes : Prop :=
  ∀ (s : State) (bytes : List Byte),
    decode s.params.impl2 (windowAt s s.pc) = .unknown bytes →
    (fetchInstr s).1 = bytes ∧ (disassembleAt s s.pc).2 = bytes.length ∧
    (fetchInstr s).2 = { s with pc := s.pc + BitVec.ofNat 16 bytes.length } ∧
    (s.fault = none → ¬(s.irqPending = true ∧ s.iff = true) → s.run = .running →
      step s = .fault (.unknownInstruction bytes s.pc))

/-- The interrupt entry (R416, R417): the request is consumed, PC is pushed, PC becomes 0x0038, HALTED is cleared, IFF is cleared only under the
parameter, and nothing else changes; it comes before the HALTED check and before any fetch (R418). -/
def Obligations.InterruptEntry : Prop :=
  ∀ s : State,
    s.fault = none → s.irqPending = true → s.iff = true →
    ∃ t, step s = .next t ∧ WordStored s t (s.sp - 2) s.pc ∧
      t = { s with irqPending := false, sp := s.sp - 2, mem := t.mem, pc := 0x0038, run := .running
                   iff := !s.params.irqEntryClearsIff }

/-- The interrupted program is resumed by RET (R419): with the handler's first byte RET at 0x0038 and the pushed word not lying on it, two
steps bring PC and SP back and leave the rest as the entry left it. The pushed word is kept off the handler's byte by hypothesis. -/
def Obligations.InterruptThenRet : Prop :=
  ∀ s : State,
    s.fault = none → s.irqPending = true → s.iff = true → read8 s 0x0038 = 0xC9 → s.sp - 2 ≠ 0x0038 → s.sp - 1 ≠ 0x0038 →
    ∃ t u, step s = .next t ∧ step t = .next u ∧ u.pc = s.pc ∧ u.sp = s.sp ∧ u.run = .running ∧
      u = { t with pc := s.pc, sp := s.sp }

/-- The run state (R31): RUNNING at reset with PC 0; HALT makes it HALTED and no other instruction changes it; the interrupt entry and
`reset()` make it RUNNING; while HALTED and no interrupt is taken, any number of steps leaves the whole engine unchanged. -/
def Obligations.HaltedEngineIdles : Prop :=
  (State.reset.run = .running ∧ State.reset.pc = 0) ∧
  (∀ s, ∃ t, exec .halt s = .next t ∧ t.run = .halted) ∧
  (∀ i s t, i ≠ .halt → exec i s = .next t → t.run = s.run) ∧
  (∀ s, (takeInterrupt s).run = .running ∧ (hostReset s).run = .running) ∧
  ∀ (s : State) (k : Nat),
    s.fault = none → s.run = .halted → ¬(s.irqPending = true ∧ s.iff = true) →
    core.run k s = .next s

/-- No decoded instruction can fail (R413): every instruction completes in every state, and a step of an engine that is not faulted either
completes or raises `UnknownInstruction` at PC. -/
def Obligations.NoOtherFault : Prop :=
  (∀ (i : Instr) (s : State), ∃ t, exec i s = .next t) ∧
  ∀ s : State, s.fault = none →
    (∃ t, step s = .next t) ∨ ∃ bytes, step s = .fault (.unknownInstruction bytes s.pc)

/-! ## Invariants and whole-machine rules -/

/-- Every step keeps the invariant: Memory stays canonical and no step that completes leaves a fault record. That Memory is held in a
canonical list is the model's own form of the 65536 cells (log 8). -/
def Obligations.StepKeepsInvariant : Prop := ∀ s t : State, Inv s → step s = .next t → Inv t

/-- A newly made engine meets the invariant, for every setting of the open parameters. Construction is the spec's decision D30 (log 14).
That Memory is canonical is the model's own form of the 65536 cells (log 8). -/
def Obligations.ConstructionMeetsInvariant : Prop := (∀ p : Params, Inv (construct p)) ∧ Inv State.reset

/-- In every state a host can reach, the faulted ones included, Memory is canonical, IR is 0 (R29) and the parameters are those of
construction (R37); a fault record holds one, two or four bytes (R411), and no step that completes and neither `reset()` nor `clear()`
leaves one (R412). That Memory is canonical is the model's own form of the 65536 cells (log 8); which states a host can reach is the model's
list of the host operations (log 9, 11, 19). -/
def Obligations.ReachableStatesMeetInvariant : Prop :=
  ∀ (p : Params) (s : State), Reachable p s →
    memWf s.mem = true ∧ s.ir = 0 ∧ s.params = p ∧ (s.fault = none → Inv s) ∧
    (∀ r, s.fault = some r → r.bytes.length ∈ [1, 2, 4]) ∧
    (∀ t, step s = .next t → Inv t) ∧ Inv (hostReset s) ∧ Inv (hostClear s)

/-- No step writes IR, the parameters, or which slots are bound (R29, R33, R37). -/
def Obligations.StepKeepsConfiguration : Prop :=
  ∀ s t : State, step s = .next t →
    t.ir = s.ir ∧ t.params = s.params ∧ ∀ k : Fin 16, (t.slots.get k).isSome = (s.slots.get k).isSome

/-- IFF (R30): 0 at reset, EI sets it, DI and `reset()` clear it, no other instruction writes it and none reads it (with another IFF the
same instruction does the same), and the interrupt entry clears it exactly under the parameter. Two runs are compared here: that both see
the same `undef1()` draws and the same device answers is the model's choice (log 4, log 5). -/
def Obligations.InterruptEnableFlag : Prop :=
  State.reset.iff = false ∧
  (∀ s, (∃ t, exec .ei s = .next t ∧ t.iff = true) ∧ (∃ t, exec .di s = .next t ∧ t.iff = false) ∧ (hostReset s).iff = false) ∧
  (∀ (i : Instr) (s t : State) (b : Bool), i ≠ .ei → i ≠ .di → exec i s = .next t →
    t.iff = s.iff ∧ exec i { s with iff := b } = .next { t with iff := b }) ∧
  ∀ s, s.iff = true → (takeInterrupt s).iff = !s.params.irqEntryClearsIff

/-- The shadow registers (R23): EX AF,AF' and EXX exchange values; every other instruction neither writes a shadow register nor reads one
(with other shadow values it does the same and leaves them); the debug view shows every pair, current and shadow. Two runs are compared
here: that both see the same `undef1()` draws and the same device answers is the model's choice (log 4, log 5). -/
def Obligations.ShadowRegistersOnlyExchanged : Prop :=
  (∀ s, ∃ t, exec .exAFAF s = .next t ∧ t = { s with a := s.aAlt, f := s.fAlt, aAlt := s.a, fAlt := s.f }) ∧
  (∀ s, ∃ t, exec .exx s = .next t ∧
    t = { s with bc := s.bcAlt, de := s.deAlt, hl := s.hlAlt, bcAlt := s.bc, deAlt := s.de, hlAlt := s.hl }) ∧
  (∀ (i : Instr) (s t : State) (a : Byte) (f : Flags), i ≠ .exAFAF → exec i s = .next t →
    t.aAlt = s.aAlt ∧ t.fAlt = s.fAlt ∧ exec i { s with aAlt := a, fAlt := f } = .next { t with aAlt := a, fAlt := f }) ∧
  (∀ (i : Instr) (s t : State) (x y z : Word), i ≠ .exx → exec i s = .next t →
    t.bcAlt = s.bcAlt ∧ t.deAlt = s.deAlt ∧ t.hlAlt = s.hlAlt ∧
    exec i { s with bcAlt := x, deAlt := y, hlAlt := z } = .next { t with bcAlt := x, deAlt := y, hlAlt := z }) ∧
  ∀ s, (debugView s).af = BitVec.ofNat 16 (256 * s.a.toNat + s.f.toByte.toNat) ∧ (debugView s).bc = s.bc ∧ (debugView s).de = s.de ∧
    (debugView s).hl = s.hl ∧ (debugView s).afAlt = BitVec.ofNat 16 (256 * s.aAlt.toNat + s.fAlt.toByte.toNat) ∧
    (debugView s).bcAlt = s.bcAlt ∧ (debugView s).deAlt = s.deAlt ∧ (debugView s).hlAlt = s.hlAlt

/-- The latch is cleared only by the step that takes the interrupt (R32, R415, R428): a request made while IFF = 0 waits. -/
def Obligations.RequestWaitsUntilTaken : Prop :=
  ∀ s t : State, step s = .next t → s.irqPending = true →
    (s.iff = false → t.irqPending = true) ∧ (t.irqPending = false → s.iff = true ∧ t.pc = 0x0038)

/-- An instruction that computes no flags leaves all eight bits of F as they are, but for POP AF and EX AF,AF' which replace F; the model
makes no `undef1()` draw for it (R28 last rows, R27). The count of draws is the model's own field (log 4). -/
def Obligations.FlagWriters : Prop :=
  ∀ (i : Instr) (s t : State), exec i s = .next t → computesF i = false →
    t.draws = s.draws ∧ (i ≠ .pop .af → i ≠ .exAFAF → t.f = s.f)

/-- The memory frame of all instructions: every byte outside the addresses the instruction stores to reads as before (R50, R55). -/
def Obligations.MemoryFrame : Prop :=
  ∀ (i : Instr) (s t : State) (b : Word), exec i s = .next t → b ∉ storedAt s i → read8 t b = read8 s b

/-- Ports (R57, R60): an instruction that accesses no port leaves the device table and the request latch as they are; one that does makes
one call on the device of that port's slot if it is bound, does nothing to them if it is not, and makes no call on another. How a device
answers is the model's script and free value (log 5). -/
def Obligations.OneDeviceCallPerPortInstruction : Prop :=
  ∀ (i : Instr) (s t : State), exec i s = .next t →
    match portOf s i with
    | none => t.slots = s.slots ∧ t.irqPending = s.irqPending
    | some port =>
      (∀ k, k ≠ slotNumber port → t.slots.get k = s.slots.get k) ∧
      (s.slots.get (slotNumber port) = none → t.slots = s.slots ∧ t.irqPending = s.irqPending) ∧
      ∀ d, s.slots.get (slotNumber port) = some d →
        ∃ call, t.slots.get (slotNumber port) = some ⟨d.script.tail, call :: d.calls⟩

/-! ## Loads, stores, exchanges -/

/-- 8-bit loads into a register: R150, R151, R153, R286, and into A: R313, R315, R319. No flag moves. -/
def Obligations.RegisterLoads : Prop :=
  ∀ (s : State) (r : Reg8),
    (∀ q, LoadsReg (.ldRR r q) s r (reg8 s q)) ∧ LoadsReg (.ldRHL r) s r (read8 s s.hl) ∧
    (∀ n, LoadsReg (.ldRN r n) s r n) ∧ (∀ x d, LoadsReg (.ldRXYd x r d) s r (read8 s (moved (index s x) d))) ∧
    LoadsReg .ldABC s .a (read8 s s.bc) ∧ LoadsReg .ldADE s .a (read8 s s.de) ∧
    ∀ nn, LoadsReg (.ldAMem nn) s .a (read8 s nn)

/-- Stores: of a byte (R152, R154, R287, R312, R314, R318, R364), and of a word with the low byte to nn and the high byte to nn + 1 mod 65536
(R267, R316, R360). Nothing but those bytes changes. -/
def Obligations.Stores : Prop :=
  ∀ (s : State) (nn : Word),
    (∀ r, StoresByte (.ldHLR r) s s.hl (reg8 s r)) ∧ (∀ n, StoresByte (.ldHLN n) s s.hl n) ∧
    (∀ x d r, StoresByte (.ldXYdR x d r) s (moved (index s x) d) (reg8 s r)) ∧
    (∀ x d n, StoresByte (.ldXYdN x d n) s (moved (index s x) d) n) ∧
    StoresByte .ldBCA s s.bc s.a ∧ StoresByte .ldDEA s s.de s.a ∧ StoresByte (.ldMemA nn) s nn s.a ∧
    (∀ p, StoresWord (.ldMemDd nn p) s nn (pair s p)) ∧ StoresWord (.ldMemHL nn) s nn s.hl ∧
    ∀ x, StoresWord (.ldMemXY nn x) s nn (index s x)

/-- 16-bit loads: R155, R156, R268, R317, R285, R361, R371. -/
def Obligations.PairLoads : Prop :=
  ∀ (s : State) (nn : Word),
    (∀ p, LoadsPair (.ldDdNN p nn) s p nn ∧ LoadsPair (.ldDdMem p nn) s p (wordAt s nn)) ∧
    LoadsPair .ldSPHL s .sp s.hl ∧ LoadsPair (.ldHLMem nn) s .hl (wordAt s nn) ∧
    ∀ x, LoadsIndex (.ldXYNN x nn) s x nn ∧ LoadsIndex (.ldXYMem x nn) s x (wordAt s nn) ∧
      LoadsPair (.ldSPXY x) s .sp (index s x)

/-- PUSH (R157, R369): the word, AF with all eight bits of F, is stored below the old SP and SP is 2 lower. POP (R158, R367): the register takes
the word at SP, POP AF replaces A and all eight bits of F, SP is 2 higher and Memory stays. Nothing else changes. -/
def Obligations.StackTransfers : Prop :=
  ∀ s : State,
    (∀ q, ∃ t, exec (.push q) s = .next t ∧ WordStored s t (s.sp - 2) (stackPair s q) ∧ t = { s with sp := s.sp - 2, mem := t.mem }) ∧
    (∀ x, ∃ t, exec (.pushXY x) s = .next t ∧ WordStored s t (s.sp - 2) (index s x) ∧ t = { s with sp := s.sp - 2, mem := t.mem }) ∧
    stackPair s .af = BitVec.ofNat 16 (256 * s.a.toNat + s.f.toByte.toNat) ∧
    (∀ q, ∃ t, exec (.pop q) s = .next t ∧ stackPair t q = wordAt s s.sp ∧ (∀ r, r ≠ q → stackPair t r = stackPair s r) ∧
      t = { s with a := t.a, f := t.f, bc := t.bc, de := t.de, hl := t.hl, sp := s.sp + 2 }) ∧
    (∃ t, exec (.pop .af) s = .next t ∧ t.a = read8 s (s.sp + 1) ∧ t.f.toByte = read8 s s.sp) ∧
    ∀ x, ∃ t, exec (.popXY x) s = .next t ∧ index t x = wordAt s s.sp ∧ (∀ y, y ≠ x → index t y = index s y) ∧
      t = { s with ix := t.ix, iy := t.iy, sp := s.sp + 2 }

/-- Exchanges. EX DE,HL, EX AF,AF' and EXX (R159, R160, R161): the values are swapped, nothing else changes, and the same exchange again restores
the state. EX (SP),HL and EX (SP),IX (R162, R368): the register and the word at SP are swapped and SP does not move. -/
def Obligations.Exchanges : Prop :=
  ∀ s : State,
    (∃ t, exec .exDEHL s = .next t ∧ t = { s with de := s.hl, hl := s.de } ∧ exec .exDEHL t = .next s) ∧
    (∃ t, exec .exAFAF s = .next t ∧ af t = afAlt s ∧ afAlt t = af s ∧
      t = { s with a := t.a, f := t.f, aAlt := t.aAlt, fAlt := t.fAlt } ∧ exec .exAFAF t = .next s) ∧
    (∃ t, exec .exx s = .next t ∧
      t = { s with bc := s.bcAlt, de := s.deAlt, hl := s.hlAlt, bcAlt := s.bc, deAlt := s.de, hlAlt := s.hl } ∧
      exec .exx t = .next s) ∧
    (∃ t, exec .exSPHL s = .next t ∧ WordStored s t s.sp s.hl ∧ t = { s with hl := wordAt s s.sp, mem := t.mem }) ∧
    ∀ x, ∃ t, exec (.exSPXY x) s = .next t ∧ WordStored s t s.sp (index s x) ∧ index t x = wordAt s s.sp ∧
      (∀ y, y ≠ x → index t y = index s y) ∧ t = { s with ix := t.ix, iy := t.iy, mem := t.mem }

/-! ## Arithmetic and logic -/

/-- ADD and ADC (R180 to R185, R211, R288, R365): the sum with its six flags, P/V the signed overflow; ADC adds the old carry flag. -/
def Obligations.AccumulatorAdditions : Prop :=
  ∀ (s : State) (x : Operand8),
    SetsAcc (addForm x) s (sumResult s.a (x.value s) false) (sumFlags 4 s.a (x.value s) false) ∧
    SetsAcc (adcForm x) s (sumResult s.a (x.value s) s.f.c) (sumFlags 4 s.a (x.value s) s.f.c)

/-- SUB, SBC and CP (R186 to R191, R201 to R203, R289, R293, R366): the difference with its six flags, H as `SUB_HALF_POLICY` says; CP
does not write A. The policy is the spec's decision D4 (log 2). -/
def Obligations.AccumulatorSubtractions : Prop :=
  ∀ (s : State) (x : Operand8),
    SetsAcc (subForm x) s (differenceResult s.a (x.value s) false) (differenceFlags s.params.subHalf 4 s.a (x.value s) false) ∧
    SetsAcc (sbcForm x) s (differenceResult s.a (x.value s) s.f.c) (differenceFlags s.params.subHalf 4 s.a (x.value s) s.f.c) ∧
    SetsAcc (cpForm x) s s.a (differenceFlags s.params.subHalf 4 s.a (x.value s) false)

/-- NEG (R340): A becomes 0 - A; P/V is set iff A was 0x80, C iff A was not 0, N is set, H follows `SUB_HALF_POLICY`. The policy is the
spec's decision D4 (log 2). -/
def Obligations.Negate : Prop :=
  ∀ s : State,
    SetsAcc .neg s (BitVec.ofInt 8 (-(s.a.toNat : Int)))
      { s := decide (0 < s.a.toNat ∧ s.a.toNat ≤ 128), z := decide (s.a = 0)
        h := match s.params.subHalf with
          | .literal => decide (s.a.toNat % 16 = 0)
          | .borrow => decide (s.a.toNat % 16 ≠ 0)
        pv := decide (s.a = 0x80), n := true, c := decide (s.a ≠ 0) }

/-- AND, XOR and OR (R192 to R200, R290 to R292): the bitwise result, S, Z and even parity from it, H = 1 after AND and 0 otherwise, N = C
= 0. Which operation sets H is the spec's decision D24. -/
def Obligations.AccumulatorLogic : Prop :=
  ∀ (s : State) (x : Operand8),
    SetsAcc (andForm x) s (BitVec.ofNat 8 (Nat.land s.a.toNat (x.value s).toNat)) (resultFlags (s.a &&& x.value s) true false) ∧
    SetsAcc (xorForm x) s (BitVec.ofNat 8 (Nat.xor s.a.toNat (x.value s).toNat)) (resultFlags (s.a ^^^ x.value s) false false) ∧
    SetsAcc (orForm x) s (BitVec.ofNat 8 (Nat.lor s.a.toNat (x.value s).toNat)) (resultFlags (s.a ||| x.value s) false false)

/-- 8-bit INC and DEC (R127, R128; R204 to R207, R362, R363) on a register, the byte at HL and the byte at XY + d: the result mod 256, S and Z
from it, H at the low-nibble boundary, P/V at 0x7F for INC and 0x80 for DEC, N, and C as before. H of DEC does not depend on
`SUB_HALF_POLICY`. -/
def Obligations.ByteIncrementsAndDecrements : Prop :=
  ∀ (s : State) (v up down : Byte) (upFlags downFlags : AluFlags),
    up = BitVec.ofNat 8 (v.toNat + 1) → down = BitVec.ofInt 8 (v.toNat - 1) →
    upFlags = { s := decide (128 ≤ up.toNat), z := decide (up.toNat = 0), h := decide (v.toNat % 16 = 15)
                pv := decide (v = 0x7F), n := false, c := s.f.c } →
    downFlags = { s := decide (128 ≤ down.toNat), z := decide (down.toNat = 0), h := decide (v.toNat % 16 = 0)
                  pv := decide (v = 0x80), n := true, c := s.f.c } →
    (∀ r, reg8 s r = v → SetsReg (.incR r) s r up upFlags ∧ SetsReg (.decR r) s r down downFlags) ∧
    (read8 s s.hl = v → SetsByte .incHL s s.hl up upFlags ∧ SetsByte .decHL s s.hl down downFlags) ∧
    ∀ x d, read8 s (moved (index s x) d) = v →
      SetsByte (.incXYd x d) s (moved (index s x) d) up upFlags ∧ SetsByte (.decXYd x d) s (moved (index s x) d) down downFlags

/-- 16-bit INC and DEC (R208, R209, R283, R284): the pair moves by one mod 65536 and no flag moves. -/
def Obligations.PairIncrementsAndDecrements : Prop :=
  ∀ s : State,
    (∀ p, LoadsPair (.incSS p) s p (BitVec.ofNat 16 ((pair s p).toNat + 1)) ∧
      LoadsPair (.decSS p) s p (BitVec.ofInt 16 ((pair s p).toNat - 1))) ∧
    ∀ x, LoadsIndex (.incXY x) s x (BitVec.ofNat 16 ((index s x).toNat + 1)) ∧
      LoadsIndex (.decXY x) s x (BitVec.ofInt 16 ((index s x).toNat - 1))

/-- Plain 16-bit ADD (R210, R282, R125): HL or XY takes the sum; H is the carry out of bit 11, C that out of bit 15, N = 0; S, Z and P/V
stay. For XY this is the spec's decision D22. -/
def Obligations.PlainWordAdditions : Prop :=
  ∀ s : State,
    (∀ p, ∃ t, exec (.addHLSS p) s = .next t ∧
      t = { s with hl := sumResult s.hl (pair s p) false, f := t.f, draws := t.draws } ∧
      t.f.six = { s.f.six with
        h := (sumFlags 12 s.hl (pair s p) false).h, n := false, c := (sumFlags 12 s.hl (pair s p) false).c }) ∧
    ∀ x p, ∃ t, exec (.addXY x p) s = .next t ∧
      index t x = sumResult (index s x) (indexPair s x p) false ∧ (∀ y, y ≠ x → index t y = index s y) ∧
      t = { s with ix := t.ix, iy := t.iy, f := t.f, draws := t.draws } ∧
      t.f.six = { s.f.six with
        h := (sumFlags 12 (index s x) (indexPair s x p) false).h, n := false
        c := (sumFlags 12 (index s x) (indexPair s x p) false).c }

/-- ADC HL,ss and SBC HL,ss (R265, R266, R123, R124): the 16-bit sum or difference with the carry flag, and all six flags. The policy of H
after SBC is the spec's decision D4 (log 2). -/
def Obligations.WordArithmeticWithCarry : Prop :=
  ∀ (s : State) (p : Pair),
    (∃ t, exec (.adcHLSS p) s = .next t ∧ t.f.six = sumFlags 12 s.hl (pair s p) s.f.c ∧
      t = { s with hl := sumResult s.hl (pair s p) s.f.c, f := t.f, draws := t.draws }) ∧
    ∃ t, exec (.sbcHLSS p) s = .next t ∧ t.f.six = differenceFlags s.params.subHalf 12 s.hl (pair s p) s.f.c ∧
      t = { s with hl := differenceResult s.hl (pair s p) s.f.c, f := t.f, draws := t.draws }

/-- DAA (R325): A takes the corrected value; S, Z and parity come from it, N is kept, C is never cleared; H is free (the spec's D37). -/
def Obligations.DecimalAdjust : Prop :=
  ∀ s : State,
    ∃ t, exec .daa s = .next t ∧ t = { s with a := t.a, f := t.f, draws := t.draws } ∧
      (∃ low high : Nat,
        low = (if s.f.h = true ∨ 9 < s.a.toNat % 16 then 6 else 0) ∧
        high = (if s.f.c = true ∨ 0x99 < s.a.toNat then 0x60 else 0) ∧
        t.a = if s.f.n = true then BitVec.ofInt 8 ((s.a.toNat : Int) - low - high) else BitVec.ofNat 8 (s.a.toNat + low + high)) ∧
      t.f.six = { resultFlags t.a t.f.h (s.f.c || decide (0x99 < s.a.toNat)) with n := s.f.n }

/-- ADD then DAA adds two-digit decimal numbers: for A and n in packed decimal the two instructions leave the packed decimal sum and its
carry (R182, R325). -/
def Obligations.DecimalAddition : Prop :=
  ∀ (s : State) (x y : Nat), x < 100 → y < 100 → s.a = BitVec.ofNat 8 (16 * (x / 10) + x % 10) →
    ∃ t u, exec (.addAN (BitVec.ofNat 8 (16 * (y / 10) + y % 10))) s = .next t ∧ exec .daa t = .next u ∧
      u.a = BitVec.ofNat 8 (16 * ((x + y) % 100 / 10) + (x + y) % 10) ∧ u.f.c = decide (100 ≤ x + y)

/-- CPL, SCF and CCF (R326, R327, R328). -/
def Obligations.FlagAdjustments : Prop :=
  ∀ s : State,
    SetsAcc .cpl s (BitVec.ofNat 8 (255 - s.a.toNat)) { s.f.six with h := true, n := true } ∧
    SetsAcc .scf s s.a { s.f.six with h := false, n := false, c := true } ∧
    SetsAcc .ccf s s.a { s.f.six with h := s.f.c, n := false, c := !s.f.c }

/-! ## Rotates, shifts, bits -/

/-- The eight rotates and shifts on a register (R130 to R137, with R129 and R240 to R254): the result and the ejected bit of each operation, its
number o as the y field of the second byte, S, Z and parity of the result, H = N = 0, C the ejected bit. -/
def Obligations.RegisterShifts : Prop :=
  ∀ (s : State) (op : ShiftOp) (r : Reg8),
    (∃ b : Byte, encode (op.onReg r) = [0xCB, b] ∧ b.toNat / 8 = op.number) ∧
    SetsReg (op.onReg r) s r (op.result (reg8 s r) s.f.c) (resultFlags (op.result (reg8 s r) s.f.c) false (op.ejected (reg8 s r)))

/-- The eight rotates and shifts on the byte at HL and at XY + d (R241 to R255 and R294 to R301 with R129): the result goes back to the same
cell and to no register. -/
def Obligations.MemoryShifts : Prop :=
  ∀ (s : State) (op : ShiftOp),
    SetsByte op.onHL s s.hl (op.result (read8 s s.hl) s.f.c)
      (resultFlags (op.result (read8 s s.hl) s.f.c) false (op.ejected (read8 s s.hl))) ∧
    ∀ x d, ∃ a v, a = moved (index s x) d ∧ v = read8 s a ∧
      SetsByte (op.onXY x d) s a (op.result v s.f.c) (resultFlags (op.result v s.f.c) false (op.ejected v))

/-- RLCA, RRCA, RLA and RRA (R320 to R323): A as the CB forms rotate it, H = N = 0, C the ejected bit; S, Z and P/V stay. -/
def Obligations.AccumulatorRotates : Prop :=
  ∀ (s : State) (i : Instr) (op : ShiftOp),
    (i, op) ∈ [(Instr.rlca, ShiftOp.rlc), (.rrca, .rrc), (.rla, .rl), (.rra, .rr)] →
    SetsAcc i s (op.result s.a s.f.c) { s.f.six with h := false, n := false, c := op.ejected s.a }

/-- BIT (R256, R257, R302, R138): Z is the complement of the bit, H = 1, N = 0; S, P/V and C stay and no operand is written. That S and
P/V stay is the spec's decision D5. -/
def Obligations.BitTests : Prop :=
  ∀ (s : State) (b : BitVec 3),
    (∀ r, SetsAcc (.bitR b r) s s.a { s.f.six with z := decide ((reg8 s r).toNat / 2 ^ b.toNat % 2 = 0), h := true, n := false }) ∧
    SetsAcc (.bitHL b) s s.a { s.f.six with z := decide ((read8 s s.hl).toNat / 2 ^ b.toNat % 2 = 0), h := true, n := false } ∧
    ∀ x d, SetsAcc (.bitXYd x b d) s s.a
      { s.f.six with z := decide ((read8 s (moved (index s x) d)).toNat / 2 ^ b.toNat % 2 = 0), h := true, n := false }

/-- RES and SET (R258 to R261, R303, R304, R142): the named bit becomes 0 or 1, every other bit of the operand stays, and no flag moves. -/
def Obligations.BitWrites : Prop :=
  ∀ (s : State) (b : BitVec 3) (v : Byte),
    ∃ cleared set : Byte,
      (∀ k, k < 8 → cleared.getLsbD k = (decide (k ≠ b.toNat) && v.getLsbD k) ∧ set.getLsbD k = (decide (k = b.toNat) || v.getLsbD k)) ∧
      (∀ r, reg8 s r = v → LoadsReg (.resR b r) s r cleared ∧ LoadsReg (.setR b r) s r set) ∧
      (read8 s s.hl = v → StoresByte (.resHL b) s s.hl cleared ∧ StoresByte (.setHL b) s s.hl set) ∧
      ∀ x d, read8 s (moved (index s x) d) = v →
        StoresByte (.resXYd x b d) s (moved (index s x) d) cleared ∧ StoresByte (.setXYd x b d) s (moved (index s x) d) set

/-- RRD and RLD (R341, R342): the low nibble of A and the two nibbles of the byte at HL rotate by one place; the high nibble of A and C stay. -/
def Obligations.NibbleRotates : Prop :=
  ∀ s : State, ∃ m, m = read8 s s.hl ∧
    (∃ t, exec .rrd s = .next t ∧ t = { s with a := t.a, f := t.f, draws := t.draws, mem := t.mem } ∧
      t.a.toNat = s.a.toNat / 16 * 16 + m.toNat % 16 ∧
      ByteStored s t s.hl (BitVec.ofNat 8 (s.a.toNat % 16 * 16 + m.toNat / 16)) ∧ t.f.six = resultFlags t.a false s.f.c) ∧
    ∃ t, exec .rld s = .next t ∧ t = { s with a := t.a, f := t.f, draws := t.draws, mem := t.mem } ∧
      t.a.toNat = s.a.toNat / 16 * 16 + m.toNat / 16 ∧
      ByteStored s t s.hl (BitVec.ofNat 8 (m.toNat % 16 * 16 + s.a.toNat % 16)) ∧ t.f.six = resultFlags t.a false s.f.c

/-! ## Control flow -/

/-- Jumps (R215 to R218, R324, R329, R370, with R94, R101 and R140): PC takes the target, relative ones from the address after the instruction; a
condition that does not hold leaves everything unchanged; DJNZ makes B one lower mod 256 and jumps unless B became 0; no flag moves. The
table of the conditions is R140. -/
def Obligations.Jumps : Prop :=
  ∀ (s : State) (nn : Word) (e : Byte),
    JumpsTo (.jpNN nn) s nn ∧ JumpsTo (.jrE e) s (moved s.pc e) ∧ JumpsTo .jpHL s s.hl ∧ (∀ x, JumpsTo (.jpXY x) s (index s x)) ∧
    (∀ cc holds, (cc, holds) ∈ [(Cond.nz, !s.f.z), (.z, s.f.z), (.nc, !s.f.c), (.c, s.f.c),
        (.po, !s.f.pv), (.pe, s.f.pv), (.p, !s.f.s), (.m, s.f.s)] →
      JumpsTo (.jpCcNN cc nn) s (if holds = true then nn else s.pc)) ∧
    (∀ cc holds, (cc, holds) ∈ [(RelCond.nz, !s.f.z), (.z, s.f.z), (.nc, !s.f.c), (.c, s.f.c)] →
      JumpsTo (.jrCcE cc e) s (if holds = true then moved s.pc e else s.pc)) ∧
    ∃ t, exec (.djnz e) s = .next t ∧ reg8 t .b = BitVec.ofInt 8 ((reg8 s .b).toNat - 1) ∧ reg8 t .c = reg8 s .c ∧
      t = { s with bc := t.bc, pc := if (reg8 s .b).toNat = 1 then s.pc else moved s.pc e }

/-- CALL and RST (R219, R220, R223, R96): PC, the address after the instruction, is pushed and PC takes the target. RET (R221, R222): PC takes the
word at SP and SP is 2 higher; Memory, IFF and every other register stay. A condition that does not hold changes nothing. -/
def Obligations.CallsAndReturns : Prop :=
  ∀ (s : State) (nn : Word),
    PushesAndJumps (.callNN nn) s s.pc nn ∧
    (∀ t : BitVec 3, PushesAndJumps (.rst t) s s.pc (BitVec.ofNat 16 (8 * t.toNat))) ∧
    exec .ret s = .next { s with pc := wordAt s s.sp, sp := s.sp + 2 } ∧
    ∀ cc, (condHolds s.f cc = true → PushesAndJumps (.callCcNN cc nn) s s.pc nn ∧
        exec (.retCc cc) s = .next { s with pc := wordAt s s.sp, sp := s.sp + 2 }) ∧
      (condHolds s.f cc = false → exec (.callCcNN cc nn) s = .next s ∧ exec (.retCc cc) s = .next s)

/-- A CALL followed by a RET leaves PC at the address after the CALL and SP as before (R219, R102 and the source's stack property). -/
def Obligations.CallThenReturn : Prop :=
  ∀ (s : State) (nn : Word),
    ∃ t u, exec (.callNN nn) s = .next t ∧ exec .ret { t with pc := t.pc + 1 } = .next u ∧ u = { s with mem := u.mem } ∧
      ∀ b, b ≠ s.sp - 1 → b ≠ s.sp - 2 → read8 u b = read8 s b

/-- EI, DI, HALT and NOP (R226, R227, R228, R311): EI and DI act at once on IFF, HALT on the run state with PC past it, NOP on nothing; a pending
request stays pending. -/
def Obligations.InterruptEnableHaltAndNop : Prop :=
  ∀ s : State,
    (∃ t, exec .ei s = .next t ∧ t = { s with iff := true }) ∧ (∃ t, exec .di s = .next t ∧ t = { s with iff := false }) ∧
    (∃ t, exec .halt s = .next t ∧ t = { s with run := .halted }) ∧ exec .nop s = .next s

/-! ## Ports -/

/-- Ports. IN A,(n) and IN r,(C) (R224, R269, R58): one read on the port, the byte into the register; IN A,(n) moves no flag, IN r,(C)
sets S, Z and parity from the byte and keeps C; the port of IN r,(C) is the old C. OUT (n),A and OUT (C),r (R225, R270, R59): one write of
the register on the port, or nothing; no register and no flag moves. How a device answers is the model's script and free value (log 5). -/
def Obligations.PortTransfers : Prop :=
  ∀ s : State,
    (∀ n, ∃ t, exec (.inAN n) s = .next t ∧ PortRead s t n t.a ∧
      t = { s with a := t.a, slots := t.slots, irqPending := t.irqPending }) ∧
    (∀ r, ∃ t, exec (.inRC r) s = .next t ∧ PortRead s t (reg8 s .c) (reg8 t r) ∧ (∀ q, q ≠ r → reg8 t q = reg8 s q) ∧
      t.f.six = resultFlags (reg8 t r) false s.f.c ∧
      t = { s with a := t.a, bc := t.bc, de := t.de, hl := t.hl, f := t.f, draws := t.draws, slots := t.slots, irqPending := t.irqPending }) ∧
    (∀ n, ∃ t, exec (.outNA n) s = .next t ∧ PortWrite s t n s.a ∧ t = { s with slots := t.slots, irqPending := t.irqPending }) ∧
    ∀ r, ∃ t, exec (.outCR r) s = .next t ∧ PortWrite s t (reg8 s .c) (reg8 s r) ∧
      t = { s with slots := t.slots, irqPending := t.irqPending }

/-! ## Block instructions -/

/-- LDI, LDD, LDIR and LDDR (R343 to R346): one byte from (HL) to (DE), both pointers move by one, BC is one lower, P/V says that BC is
not 0, H = N = 0; the repeating forms set PC back over their two bytes while BC is not 0. One iteration a step is the spec's decision D29
(log 20). -/
def Obligations.BlockMoves : Prop :=
  ∀ (s : State) (i : Instr) (delta : Int) (repeats : Bool),
    (i, delta, repeats) ∈ [(Instr.ldi, (1 : Int), false), (.ldd, -1, false), (.ldir, 1, true), (.lddr, -1, true)] →
    ∃ t, exec i s = .next t ∧ ByteStored s t s.de (read8 s s.hl) ∧
      t = { s with hl := BitVec.ofInt 16 (s.hl.toNat + delta), de := BitVec.ofInt 16 (s.de.toNat + delta)
                   bc := BitVec.ofInt 16 (s.bc.toNat - 1), mem := t.mem, f := t.f, draws := t.draws
                   pc := if repeats = true ∧ s.bc.toNat ≠ 1 then s.pc - 2 else s.pc } ∧
      t.f.six = { s.f.six with h := false, n := false, pv := decide (s.bc.toNat ≠ 1) }

/-- CPI, CPD, CPIR and CPDR (R347 to R350): A is compared with (HL), HL moves by one, BC is one lower; S, Z and H from the comparison, P/V
says that BC is not 0, N = 1, C stays; the repeating forms go on while BC is not 0 and the bytes differ. One iteration a step is the
spec's decision D29 (log 20). -/
def Obligations.BlockCompares : Prop :=
  ∀ (s : State) (i : Instr) (delta : Int) (repeats : Bool),
    (i, delta, repeats) ∈ [(Instr.cpi, (1 : Int), false), (.cpd, -1, false), (.cpir, 1, true), (.cpdr, -1, true)] →
    ∃ t, exec i s = .next t ∧
      t = { s with hl := BitVec.ofInt 16 (s.hl.toNat + delta), bc := BitVec.ofInt 16 (s.bc.toNat - 1), f := t.f, draws := t.draws
                   pc := if repeats = true ∧ s.bc.toNat ≠ 1 ∧ s.a ≠ read8 s s.hl then s.pc - 2 else s.pc } ∧
      t.f.six = { differenceFlags s.params.subHalf 4 s.a (read8 s s.hl) false with pv := decide (s.bc.toNat ≠ 1), c := s.f.c }

/-- Block input and output. INI, IND, INIR and INDR (R351 to R354): one read of port C to (HL). OUTI, OUTD, OTIR and OTDR (R355 to R358):
the byte at (HL) to port C, Memory stays. In both HL moves by one, B is one lower, Z says that B is 0, N = 1, C stays and S, H and P/V are
free; the repeating forms set PC back over their two bytes while B is not 0. How a device answers is the model's script and free value
(log 5). One iteration a step is the spec's decision D29 (log 20). -/
def Obligations.BlockPortTransfers : Prop :=
  ∀ (s : State) (i : Instr) (input : Bool) (delta : Int) (repeats : Bool),
    (i, input, delta, repeats) ∈
      [(Instr.ini, true, (1 : Int), false), (.ind, true, -1, false), (.inir, true, 1, true), (.indr, true, -1, true),
        (.outi, false, 1, false), (.outd, false, -1, false), (.otir, false, 1, true), (.otdr, false, -1, true)] →
    ∃ t, exec i s = .next t ∧
      (if input = true then ∃ v, PortRead s t (reg8 s .c) v ∧ ByteStored s t s.hl v
        else PortWrite s t (reg8 s .c) (read8 s s.hl) ∧ t.mem = s.mem) ∧
      reg8 t .b = BitVec.ofInt 8 ((reg8 s .b).toNat - 1) ∧ reg8 t .c = reg8 s .c ∧
      t = { s with hl := BitVec.ofInt 16 (s.hl.toNat + delta), bc := t.bc, mem := t.mem, f := t.f, draws := t.draws
                   slots := t.slots, irqPending := t.irqPending
                   pc := if repeats = true ∧ (reg8 s .b).toNat ≠ 1 then s.pc - 2 else s.pc } ∧
      t.f.z = decide ((reg8 s .b).toNat = 1) ∧ t.f.n = true ∧ t.f.c = s.f.c

/-! ## The host's operations -/

/-- `reset()` and `clear()` (R440, R441): every register 0, IFF 0, RUNNING, no fault record, the latch its old value or 0, the peripheral
table and the parameters unchanged; `reset()` leaves Memory, `clear()` makes every byte 0x00. That the latch is the old value or 0 is the
spec's own decision D11 (log 10). -/
def Obligations.ResetAndClear : Prop :=
  ∀ s : State,
    (∃ latch, (latch = s.irqPending ∨ latch = false) ∧
      hostReset s = { construct s.params with
        irqPending := latch, mem := s.mem, slots := s.slots, draws := (hostReset s).draws }) ∧
    hostClear s = { hostReset s with mem := (hostClear s).mem } ∧ (∀ a, read8 (hostClear s) a = 0x00) ∧
    (hostReset s).f.toByte = 0x00 ∧ (hostReset s).pc = 0x0000

/-- `loadProgram` (R443): byte k goes to `origin + k` mod 65536, where the last byte that goes to an address wins; every other byte, and
everything but Memory, is unchanged. -/
def Obligations.LoadProgramWraps : Prop :=
  ∀ (s : State) (origin : Word) (bytes : List Byte),
    (∀ k (h : k < bytes.length), bytes.length ≤ k + 65536 →
      read8 (loadProgram origin bytes s) (origin + BitVec.ofNat 16 k) = bytes[k]) ∧
    (∀ b : Word, (∀ k, k < bytes.length → b ≠ origin + BitVec.ofNat 16 k) → read8 (loadProgram origin bytes s) b = read8 s b) ∧
    loadProgram origin bytes s = { s with mem := (loadProgram origin bytes s).mem }

/-- `registerPeripheral` (R444): an empty slot becomes bound and nothing else changes; a bound slot, and a slot above 15, is refused. The
refusals are the spec's decisions D10 and D35 (log 18). -/
def Obligations.PeripheralRegistration : Prop :=
  ∀ (s : State) (slot : Nat) (d : Device),
    (∀ h : slot < 16, s.slots[slot] = none →
      ∃ t, registerPeripheral slot d s = some t ∧ t = { s with slots := t.slots } ∧ t.slots[slot] = some d ∧
        ∀ k (hk : k < 16), k ≠ slot → t.slots[k] = s.slots[k]) ∧
    (∀ h : slot < 16, s.slots[slot] ≠ none → registerPeripheral slot d s = none) ∧
    (16 ≤ slot → registerPeripheral slot d s = none)

/-- A failing step changes nothing but PC (R412): after `UnknownInstruction` the engine holds the record, PC is any value, stepping it again is
stuck (the model's reading of R35 and U9, log 11), and `reset()` ends the faulted condition. -/
def Obligations.FaultLeavesStateAlone : Prop :=
  ∀ (s t : State) (r : FaultRecord), executeCall s = .failed r t →
    r.pc = s.pc ∧ t = { s with fault := some r, pc := t.pc, draws := t.draws } ∧
    step t = .fault (.faulted r.bytes r.pc) ∧ executeCall t = .stuck ∧
    (hostReset t).fault = none ∧ (hostReset t).mem = s.mem
end

