-- ==== Sys2Proof/Laws/Decode.lean ====
section
/-! SUPPORT. The dispatcher (30_encoding.md R82 to R88) in one equation: a row is looked up from the bytes alone, then the tier-2 gate
lets it in or not. -/

namespace Sys2Proof

/-! ## Bytes and their fields -/

theorem immLo_imm16 (lo hi : Byte) : immLo (imm16 lo hi) = lo := by
  apply BitVec.eq_of_toNat_eq
  rw [immLo, imm16, BitVec.extractLsb'_toNat, BitVec.toNat_append, Nat.shiftLeft_eq, Nat.mul_comm, ← Nat.two_pow_add_eq_or_of_lt lo.isLt]
  have := lo.isLt
  rw [Nat.shiftRight_zero]; omega

theorem immHi_imm16 (lo hi : Byte) : immHi (imm16 lo hi) = hi := by
  apply BitVec.eq_of_toNat_eq
  have := lo.isLt; have := hi.isLt
  rw [immHi, imm16, BitVec.extractLsb'_toNat, BitVec.toNat_append, Nat.shiftLeft_eq, Nat.mul_comm, ← Nat.two_pow_add_eq_or_of_lt lo.isLt,
    Nat.shiftRight_eq_div_pow]
  omega

theorem imm16_imm (nn : Word) : imm16 (immLo nn) (immHi nn) = nn := by
  apply BitVec.eq_of_toNat_eq
  have := nn.isLt
  rw [imm16, BitVec.toNat_append, Nat.shiftLeft_eq, Nat.mul_comm, ← Nat.two_pow_add_eq_or_of_lt (immLo nn).isLt,
    immLo, immHi, BitVec.extractLsb'_toNat, BitVec.extractLsb'_toNat, Nat.shiftRight_eq_div_pow, Nat.shiftRight_eq_div_pow]
  omega

theorem byte_eq_opcodeXYZ (v : Byte) : v = opcodeXYZ (v.extractLsb' 6 2) (opY v) (opZ v) := by revert v; decide

/-! ## The dispatcher as lookup and gate -/

/-- The row the bytes of a window select, before the gate. -/
def rowAt (w : Window) : Option Instr :=
  if w.b0 = 0xCB then some (cbRow w.b1)
  else if w.b0 = 0xED then edRow w.b1 w.b2 w.b3
  else if w.b0 = 0xDD then (if w.b1 = 0xCB then xycbRow .ix w.b2 w.b3 else xyRow .ix w.b1 w.b2 w.b3)
  else if w.b0 = 0xFD then (if w.b1 = 0xCB then xycbRow .iy w.b2 w.b3 else xyRow .iy w.b1 w.b2 w.b3)
  else baseRow w.b0 w.b1 w.b2

/-- The bytes examined when no row is found. -/
def bytesExamined (w : Window) : List Byte :=
  if w.b0 = 0xED then [w.b0, w.b1]
  else if w.b0 = 0xDD ∨ w.b0 = 0xFD then (if w.b1 = 0xCB then w.bytes else [w.b0, w.b1])
  else [w.b0]

/-- The bytes examined are one, two or four (R88). -/
theorem bytesExamined_length (w : Window) : (bytesExamined w).length ∈ [1, 2, 4] := by
  unfold bytesExamined
  split
  · simp
  · split
    · split <;> simp [Window.bytes]
    · simp

theorem cbRow_tier2Row (sub : Byte) : (cbRow sub).tier2Row = none := by revert sub; decide

theorem decode_eq_gate (impl2 : List Tier2Row) (w : Window) : decode impl2 w = gate impl2 (bytesExamined w) (rowAt w) := by
  unfold decode rowAt bytesExamined
  split
  · simp [gate, Instr.wellFormed, cbRow_tier2Row]
  · split
    · rfl
    · split
      · next h => simp [decodeXY, h]; split <;> rfl
      · split
        · next h => simp [decodeXY, h]; split <;> rfl
        · next h1 h2 => rw [if_neg (not_or.2 ⟨h1, h2⟩)]

theorem decode_row_iff (impl2 : List Tier2Row) (w : Window) (i : Instr) :
    decode impl2 w = .row i ↔ rowAt w = some i ∧ i.wellFormed impl2 = true := by
  rw [decode_eq_gate]
  cases h : rowAt w with
  | none => simp [gate]
  | some j =>
    simp only [gate]
    split
    · next hj =>
      constructor
      · intro e; cases e; exact ⟨rfl, hj⟩
      · rintro ⟨e, -⟩; cases e; rfl
    · next hj =>
      constructor
      · intro e; cases e
      · rintro ⟨e, he⟩; cases e; exact absurd he hj

theorem decode_unknown_iff (impl2 : List Tier2Row) (w : Window) (bytes : List Byte) :
    decode impl2 w = .unknown bytes ↔ bytes = bytesExamined w ∧ ∀ i, rowAt w = some i → i.wellFormed impl2 = false := by
  rw [decode_eq_gate]
  cases h : rowAt w with
  | none =>
    constructor
    · intro e; cases e; exact ⟨rfl, fun _ e => by cases e⟩
    · rintro ⟨rfl, -⟩; rfl
  | some j =>
    simp only [gate]
    split
    · next hj =>
      constructor
      · intro e; cases e
      · rintro ⟨-, he⟩; rw [he j rfl] at hj; cases hj
    · next hj =>
      constructor
      · intro e; cases e; refine ⟨rfl, ?_⟩; rintro i e; cases e; simpa using hj
      · rintro ⟨rfl, -⟩; rfl

/-! ## The lookup in each table -/

/-- The four lead-in bytes (R82). -/
def leadIns : List Byte := [0xCB, 0xED, 0xDD, 0xFD]

theorem rowAt_base {b0 : Byte} (b1 b2 b3 : Byte) (h : b0 ∉ leadIns) : rowAt ⟨b0, b1, b2, b3⟩ = baseRow b0 b1 b2 := by
  simp only [leadIns, List.mem_cons, List.not_mem_nil, or_false, not_or] at h
  simp only [rowAt, if_neg h.1, if_neg h.2.1, if_neg h.2.2.1, if_neg h.2.2.2]

theorem rowAt_cb (b1 b2 b3 : Byte) : rowAt ⟨0xCB, b1, b2, b3⟩ = some (cbRow b1) := if_pos rfl

theorem rowAt_ed (b1 b2 b3 : Byte) : rowAt ⟨0xED, b1, b2, b3⟩ = edRow b1 b2 b3 := by simp [rowAt]

theorem rowAt_xy (x : Index) {b1 : Byte} (b2 b3 : Byte) (h : b1 ≠ 0xCB) : rowAt ⟨indexByte x, b1, b2, b3⟩ = xyRow x b1 b2 b3 := by
  cases x <;> simp only [rowAt, indexByte, if_neg h] <;> rfl

theorem rowAt_xycb (x : Index) (b2 b3 : Byte) : rowAt ⟨indexByte x, 0xCB, b2, b3⟩ = xycbRow x b2 b3 := by
  cases x <;> simp [rowAt, indexByte]

end Sys2Proof
end

