-- ==== Sys2Proof/Laws/State.lean ====
section
/-! SUPPORT. Which field each shared operation changes: one lemma per field per operation, so that no proof unfolds a record update. -/

namespace Sys2Proof.Machine

/-! ## Memory writes -/

@[simp] theorem write8_a (a : Word) (v : Byte) (s : State) : (write8 a v s).a = s.a := rfl
@[simp] theorem write8_f (a : Word) (v : Byte) (s : State) : (write8 a v s).f = s.f := rfl
@[simp] theorem write8_bc (a : Word) (v : Byte) (s : State) : (write8 a v s).bc = s.bc := rfl
@[simp] theorem write8_de (a : Word) (v : Byte) (s : State) : (write8 a v s).de = s.de := rfl
@[simp] theorem write8_hl (a : Word) (v : Byte) (s : State) : (write8 a v s).hl = s.hl := rfl
@[simp] theorem write8_aAlt (a : Word) (v : Byte) (s : State) : (write8 a v s).aAlt = s.aAlt := rfl
@[simp] theorem write8_fAlt (a : Word) (v : Byte) (s : State) : (write8 a v s).fAlt = s.fAlt := rfl
@[simp] theorem write8_bcAlt (a : Word) (v : Byte) (s : State) : (write8 a v s).bcAlt = s.bcAlt := rfl
@[simp] theorem write8_deAlt (a : Word) (v : Byte) (s : State) : (write8 a v s).deAlt = s.deAlt := rfl
@[simp] theorem write8_hlAlt (a : Word) (v : Byte) (s : State) : (write8 a v s).hlAlt = s.hlAlt := rfl
@[simp] theorem write8_ix (a : Word) (v : Byte) (s : State) : (write8 a v s).ix = s.ix := rfl
@[simp] theorem write8_iy (a : Word) (v : Byte) (s : State) : (write8 a v s).iy = s.iy := rfl
@[simp] theorem write8_sp (a : Word) (v : Byte) (s : State) : (write8 a v s).sp = s.sp := rfl
@[simp] theorem write8_pc (a : Word) (v : Byte) (s : State) : (write8 a v s).pc = s.pc := rfl
@[simp] theorem write8_ir (a : Word) (v : Byte) (s : State) : (write8 a v s).ir = s.ir := rfl
@[simp] theorem write8_iff (a : Word) (v : Byte) (s : State) : (write8 a v s).iff = s.iff := rfl
@[simp] theorem write8_run (a : Word) (v : Byte) (s : State) : (write8 a v s).run = s.run := rfl
@[simp] theorem write8_irqPending (a : Word) (v : Byte) (s : State) : (write8 a v s).irqPending = s.irqPending := rfl
@[simp] theorem write8_slots (a : Word) (v : Byte) (s : State) : (write8 a v s).slots = s.slots := rfl
@[simp] theorem write8_mem (a : Word) (v : Byte) (s : State) : (write8 a v s).mem = memWrite s.mem a.toNat v := rfl
@[simp] theorem write8_fault (a : Word) (v : Byte) (s : State) : (write8 a v s).fault = s.fault := rfl
@[simp] theorem write8_params (a : Word) (v : Byte) (s : State) : (write8 a v s).params = s.params := rfl
@[simp] theorem write8_draws (a : Word) (v : Byte) (s : State) : (write8 a v s).draws = s.draws := rfl
@[simp] theorem write16_a (a v : Word) (s : State) : (write16 a v s).a = s.a := rfl
@[simp] theorem write16_f (a v : Word) (s : State) : (write16 a v s).f = s.f := rfl
@[simp] theorem write16_bc (a v : Word) (s : State) : (write16 a v s).bc = s.bc := rfl
@[simp] theorem write16_de (a v : Word) (s : State) : (write16 a v s).de = s.de := rfl
@[simp] theorem write16_hl (a v : Word) (s : State) : (write16 a v s).hl = s.hl := rfl
@[simp] theorem write16_aAlt (a v : Word) (s : State) : (write16 a v s).aAlt = s.aAlt := rfl
@[simp] theorem write16_fAlt (a v : Word) (s : State) : (write16 a v s).fAlt = s.fAlt := rfl
@[simp] theorem write16_bcAlt (a v : Word) (s : State) : (write16 a v s).bcAlt = s.bcAlt := rfl
@[simp] theorem write16_deAlt (a v : Word) (s : State) : (write16 a v s).deAlt = s.deAlt := rfl
@[simp] theorem write16_hlAlt (a v : Word) (s : State) : (write16 a v s).hlAlt = s.hlAlt := rfl
@[simp] theorem write16_ix (a v : Word) (s : State) : (write16 a v s).ix = s.ix := rfl
@[simp] theorem write16_iy (a v : Word) (s : State) : (write16 a v s).iy = s.iy := rfl
@[simp] theorem write16_sp (a v : Word) (s : State) : (write16 a v s).sp = s.sp := rfl
@[simp] theorem write16_pc (a v : Word) (s : State) : (write16 a v s).pc = s.pc := rfl
@[simp] theorem write16_ir (a v : Word) (s : State) : (write16 a v s).ir = s.ir := rfl
@[simp] theorem write16_iff (a v : Word) (s : State) : (write16 a v s).iff = s.iff := rfl
@[simp] theorem write16_run (a v : Word) (s : State) : (write16 a v s).run = s.run := rfl
@[simp] theorem write16_irqPending (a v : Word) (s : State) : (write16 a v s).irqPending = s.irqPending := rfl
@[simp] theorem write16_slots (a v : Word) (s : State) : (write16 a v s).slots = s.slots := rfl
@[simp] theorem write16_fault (a v : Word) (s : State) : (write16 a v s).fault = s.fault := rfl
@[simp] theorem write16_params (a v : Word) (s : State) : (write16 a v s).params = s.params := rfl
@[simp] theorem write16_draws (a v : Word) (s : State) : (write16 a v s).draws = s.draws := rfl

/-! ## PC and the stack -/

@[simp] theorem jump_a (target : Word) (s : State) : (jump target s).a = s.a := rfl
@[simp] theorem jump_f (target : Word) (s : State) : (jump target s).f = s.f := rfl
@[simp] theorem jump_bc (target : Word) (s : State) : (jump target s).bc = s.bc := rfl
@[simp] theorem jump_de (target : Word) (s : State) : (jump target s).de = s.de := rfl
@[simp] theorem jump_hl (target : Word) (s : State) : (jump target s).hl = s.hl := rfl
@[simp] theorem jump_aAlt (target : Word) (s : State) : (jump target s).aAlt = s.aAlt := rfl
@[simp] theorem jump_fAlt (target : Word) (s : State) : (jump target s).fAlt = s.fAlt := rfl
@[simp] theorem jump_bcAlt (target : Word) (s : State) : (jump target s).bcAlt = s.bcAlt := rfl
@[simp] theorem jump_deAlt (target : Word) (s : State) : (jump target s).deAlt = s.deAlt := rfl
@[simp] theorem jump_hlAlt (target : Word) (s : State) : (jump target s).hlAlt = s.hlAlt := rfl
@[simp] theorem jump_ix (target : Word) (s : State) : (jump target s).ix = s.ix := rfl
@[simp] theorem jump_iy (target : Word) (s : State) : (jump target s).iy = s.iy := rfl
@[simp] theorem jump_sp (target : Word) (s : State) : (jump target s).sp = s.sp := rfl
@[simp] theorem jump_pc (target : Word) (s : State) : (jump target s).pc = target := rfl
@[simp] theorem jump_ir (target : Word) (s : State) : (jump target s).ir = s.ir := rfl
@[simp] theorem jump_iff (target : Word) (s : State) : (jump target s).iff = s.iff := rfl
@[simp] theorem jump_run (target : Word) (s : State) : (jump target s).run = s.run := rfl
@[simp] theorem jump_irqPending (target : Word) (s : State) : (jump target s).irqPending = s.irqPending := rfl
@[simp] theorem jump_slots (target : Word) (s : State) : (jump target s).slots = s.slots := rfl
@[simp] theorem jump_mem (target : Word) (s : State) : (jump target s).mem = s.mem := rfl
@[simp] theorem jump_fault (target : Word) (s : State) : (jump target s).fault = s.fault := rfl
@[simp] theorem jump_params (target : Word) (s : State) : (jump target s).params = s.params := rfl
@[simp] theorem jump_draws (target : Word) (s : State) : (jump target s).draws = s.draws := rfl
@[simp] theorem jumpRel_a (e : Byte) (s : State) : (jumpRel e s).a = s.a := rfl
@[simp] theorem jumpRel_f (e : Byte) (s : State) : (jumpRel e s).f = s.f := rfl
@[simp] theorem jumpRel_bc (e : Byte) (s : State) : (jumpRel e s).bc = s.bc := rfl
@[simp] theorem jumpRel_de (e : Byte) (s : State) : (jumpRel e s).de = s.de := rfl
@[simp] theorem jumpRel_hl (e : Byte) (s : State) : (jumpRel e s).hl = s.hl := rfl
@[simp] theorem jumpRel_aAlt (e : Byte) (s : State) : (jumpRel e s).aAlt = s.aAlt := rfl
@[simp] theorem jumpRel_fAlt (e : Byte) (s : State) : (jumpRel e s).fAlt = s.fAlt := rfl
@[simp] theorem jumpRel_bcAlt (e : Byte) (s : State) : (jumpRel e s).bcAlt = s.bcAlt := rfl
@[simp] theorem jumpRel_deAlt (e : Byte) (s : State) : (jumpRel e s).deAlt = s.deAlt := rfl
@[simp] theorem jumpRel_hlAlt (e : Byte) (s : State) : (jumpRel e s).hlAlt = s.hlAlt := rfl
@[simp] theorem jumpRel_ix (e : Byte) (s : State) : (jumpRel e s).ix = s.ix := rfl
@[simp] theorem jumpRel_iy (e : Byte) (s : State) : (jumpRel e s).iy = s.iy := rfl
@[simp] theorem jumpRel_sp (e : Byte) (s : State) : (jumpRel e s).sp = s.sp := rfl
@[simp] theorem jumpRel_pc (e : Byte) (s : State) : (jumpRel e s).pc = s.pc + sext16 e := rfl
@[simp] theorem jumpRel_ir (e : Byte) (s : State) : (jumpRel e s).ir = s.ir := rfl
@[simp] theorem jumpRel_iff (e : Byte) (s : State) : (jumpRel e s).iff = s.iff := rfl
@[simp] theorem jumpRel_run (e : Byte) (s : State) : (jumpRel e s).run = s.run := rfl
@[simp] theorem jumpRel_irqPending (e : Byte) (s : State) : (jumpRel e s).irqPending = s.irqPending := rfl
@[simp] theorem jumpRel_slots (e : Byte) (s : State) : (jumpRel e s).slots = s.slots := rfl
@[simp] theorem jumpRel_mem (e : Byte) (s : State) : (jumpRel e s).mem = s.mem := rfl
@[simp] theorem jumpRel_fault (e : Byte) (s : State) : (jumpRel e s).fault = s.fault := rfl
@[simp] theorem jumpRel_params (e : Byte) (s : State) : (jumpRel e s).params = s.params := rfl
@[simp] theorem jumpRel_draws (e : Byte) (s : State) : (jumpRel e s).draws = s.draws := rfl
@[simp] theorem push16_a (v : Word) (s : State) : (push16 v s).a = s.a := rfl
@[simp] theorem push16_f (v : Word) (s : State) : (push16 v s).f = s.f := rfl
@[simp] theorem push16_bc (v : Word) (s : State) : (push16 v s).bc = s.bc := rfl
@[simp] theorem push16_de (v : Word) (s : State) : (push16 v s).de = s.de := rfl
@[simp] theorem push16_hl (v : Word) (s : State) : (push16 v s).hl = s.hl := rfl
@[simp] theorem push16_aAlt (v : Word) (s : State) : (push16 v s).aAlt = s.aAlt := rfl
@[simp] theorem push16_fAlt (v : Word) (s : State) : (push16 v s).fAlt = s.fAlt := rfl
@[simp] theorem push16_bcAlt (v : Word) (s : State) : (push16 v s).bcAlt = s.bcAlt := rfl
@[simp] theorem push16_deAlt (v : Word) (s : State) : (push16 v s).deAlt = s.deAlt := rfl
@[simp] theorem push16_hlAlt (v : Word) (s : State) : (push16 v s).hlAlt = s.hlAlt := rfl
@[simp] theorem push16_ix (v : Word) (s : State) : (push16 v s).ix = s.ix := rfl
@[simp] theorem push16_iy (v : Word) (s : State) : (push16 v s).iy = s.iy := rfl
@[simp] theorem push16_pc (v : Word) (s : State) : (push16 v s).pc = s.pc := rfl
@[simp] theorem push16_ir (v : Word) (s : State) : (push16 v s).ir = s.ir := rfl
@[simp] theorem push16_iff (v : Word) (s : State) : (push16 v s).iff = s.iff := rfl
@[simp] theorem push16_run (v : Word) (s : State) : (push16 v s).run = s.run := rfl
@[simp] theorem push16_irqPending (v : Word) (s : State) : (push16 v s).irqPending = s.irqPending := rfl
@[simp] theorem push16_slots (v : Word) (s : State) : (push16 v s).slots = s.slots := rfl
@[simp] theorem push16_fault (v : Word) (s : State) : (push16 v s).fault = s.fault := rfl
@[simp] theorem push16_params (v : Word) (s : State) : (push16 v s).params = s.params := rfl
@[simp] theorem push16_draws (v : Word) (s : State) : (push16 v s).draws = s.draws := rfl
@[simp] theorem dropTop_a (s : State) : (dropTop s).a = s.a := rfl
@[simp] theorem dropTop_f (s : State) : (dropTop s).f = s.f := rfl
@[simp] theorem dropTop_bc (s : State) : (dropTop s).bc = s.bc := rfl
@[simp] theorem dropTop_de (s : State) : (dropTop s).de = s.de := rfl
@[simp] theorem dropTop_hl (s : State) : (dropTop s).hl = s.hl := rfl
@[simp] theorem dropTop_aAlt (s : State) : (dropTop s).aAlt = s.aAlt := rfl
@[simp] theorem dropTop_fAlt (s : State) : (dropTop s).fAlt = s.fAlt := rfl
@[simp] theorem dropTop_bcAlt (s : State) : (dropTop s).bcAlt = s.bcAlt := rfl
@[simp] theorem dropTop_deAlt (s : State) : (dropTop s).deAlt = s.deAlt := rfl
@[simp] theorem dropTop_hlAlt (s : State) : (dropTop s).hlAlt = s.hlAlt := rfl
@[simp] theorem dropTop_ix (s : State) : (dropTop s).ix = s.ix := rfl
@[simp] theorem dropTop_iy (s : State) : (dropTop s).iy = s.iy := rfl
@[simp] theorem dropTop_sp (s : State) : (dropTop s).sp = s.sp + 2 := rfl
@[simp] theorem dropTop_pc (s : State) : (dropTop s).pc = s.pc := rfl
@[simp] theorem dropTop_ir (s : State) : (dropTop s).ir = s.ir := rfl
@[simp] theorem dropTop_iff (s : State) : (dropTop s).iff = s.iff := rfl
@[simp] theorem dropTop_run (s : State) : (dropTop s).run = s.run := rfl
@[simp] theorem dropTop_irqPending (s : State) : (dropTop s).irqPending = s.irqPending := rfl
@[simp] theorem dropTop_slots (s : State) : (dropTop s).slots = s.slots := rfl
@[simp] theorem dropTop_mem (s : State) : (dropTop s).mem = s.mem := rfl
@[simp] theorem dropTop_fault (s : State) : (dropTop s).fault = s.fault := rfl
@[simp] theorem dropTop_params (s : State) : (dropTop s).params = s.params := rfl
@[simp] theorem dropTop_draws (s : State) : (dropTop s).draws = s.draws := rfl
@[simp] theorem repeatBlock_a (s : State) : (repeatBlock s).a = s.a := rfl
@[simp] theorem repeatBlock_f (s : State) : (repeatBlock s).f = s.f := rfl
@[simp] theorem repeatBlock_bc (s : State) : (repeatBlock s).bc = s.bc := rfl
@[simp] theorem repeatBlock_de (s : State) : (repeatBlock s).de = s.de := rfl
@[simp] theorem repeatBlock_hl (s : State) : (repeatBlock s).hl = s.hl := rfl
@[simp] theorem repeatBlock_aAlt (s : State) : (repeatBlock s).aAlt = s.aAlt := rfl
@[simp] theorem repeatBlock_fAlt (s : State) : (repeatBlock s).fAlt = s.fAlt := rfl
@[simp] theorem repeatBlock_bcAlt (s : State) : (repeatBlock s).bcAlt = s.bcAlt := rfl
@[simp] theorem repeatBlock_deAlt (s : State) : (repeatBlock s).deAlt = s.deAlt := rfl
@[simp] theorem repeatBlock_hlAlt (s : State) : (repeatBlock s).hlAlt = s.hlAlt := rfl
@[simp] theorem repeatBlock_ix (s : State) : (repeatBlock s).ix = s.ix := rfl
@[simp] theorem repeatBlock_iy (s : State) : (repeatBlock s).iy = s.iy := rfl
@[simp] theorem repeatBlock_sp (s : State) : (repeatBlock s).sp = s.sp := rfl
@[simp] theorem repeatBlock_pc (s : State) : (repeatBlock s).pc = s.pc - 2 := rfl
@[simp] theorem repeatBlock_ir (s : State) : (repeatBlock s).ir = s.ir := rfl
@[simp] theorem repeatBlock_iff (s : State) : (repeatBlock s).iff = s.iff := rfl
@[simp] theorem repeatBlock_run (s : State) : (repeatBlock s).run = s.run := rfl
@[simp] theorem repeatBlock_irqPending (s : State) : (repeatBlock s).irqPending = s.irqPending := rfl
@[simp] theorem repeatBlock_slots (s : State) : (repeatBlock s).slots = s.slots := rfl
@[simp] theorem repeatBlock_mem (s : State) : (repeatBlock s).mem = s.mem := rfl
@[simp] theorem repeatBlock_fault (s : State) : (repeatBlock s).fault = s.fault := rfl
@[simp] theorem repeatBlock_params (s : State) : (repeatBlock s).params = s.params := rfl
@[simp] theorem repeatBlock_draws (s : State) : (repeatBlock s).draws = s.draws := rfl
@[simp] theorem advance_a (n : Nat) (s : State) : (advance n s).a = s.a := rfl
@[simp] theorem advance_f (n : Nat) (s : State) : (advance n s).f = s.f := rfl
@[simp] theorem advance_bc (n : Nat) (s : State) : (advance n s).bc = s.bc := rfl
@[simp] theorem advance_de (n : Nat) (s : State) : (advance n s).de = s.de := rfl
@[simp] theorem advance_hl (n : Nat) (s : State) : (advance n s).hl = s.hl := rfl
@[simp] theorem advance_aAlt (n : Nat) (s : State) : (advance n s).aAlt = s.aAlt := rfl
@[simp] theorem advance_fAlt (n : Nat) (s : State) : (advance n s).fAlt = s.fAlt := rfl
@[simp] theorem advance_bcAlt (n : Nat) (s : State) : (advance n s).bcAlt = s.bcAlt := rfl
@[simp] theorem advance_deAlt (n : Nat) (s : State) : (advance n s).deAlt = s.deAlt := rfl
@[simp] theorem advance_hlAlt (n : Nat) (s : State) : (advance n s).hlAlt = s.hlAlt := rfl
@[simp] theorem advance_ix (n : Nat) (s : State) : (advance n s).ix = s.ix := rfl
@[simp] theorem advance_iy (n : Nat) (s : State) : (advance n s).iy = s.iy := rfl
@[simp] theorem advance_sp (n : Nat) (s : State) : (advance n s).sp = s.sp := rfl
@[simp] theorem advance_pc (n : Nat) (s : State) : (advance n s).pc = s.pc + BitVec.ofNat 16 n := rfl
@[simp] theorem advance_ir (n : Nat) (s : State) : (advance n s).ir = s.ir := rfl
@[simp] theorem advance_iff (n : Nat) (s : State) : (advance n s).iff = s.iff := rfl
@[simp] theorem advance_run (n : Nat) (s : State) : (advance n s).run = s.run := rfl
@[simp] theorem advance_irqPending (n : Nat) (s : State) : (advance n s).irqPending = s.irqPending := rfl
@[simp] theorem advance_slots (n : Nat) (s : State) : (advance n s).slots = s.slots := rfl
@[simp] theorem advance_mem (n : Nat) (s : State) : (advance n s).mem = s.mem := rfl
@[simp] theorem advance_fault (n : Nat) (s : State) : (advance n s).fault = s.fault := rfl
@[simp] theorem advance_params (n : Nat) (s : State) : (advance n s).params = s.params := rfl
@[simp] theorem advance_draws (n : Nat) (s : State) : (advance n s).draws = s.draws := rfl

/-! ## F and the draws -/

@[simp] theorem writeF_a (fl : AluFlags) (s : State) : (writeF fl s).a = s.a := rfl
@[simp] theorem writeF_bc (fl : AluFlags) (s : State) : (writeF fl s).bc = s.bc := rfl
@[simp] theorem writeF_de (fl : AluFlags) (s : State) : (writeF fl s).de = s.de := rfl
@[simp] theorem writeF_hl (fl : AluFlags) (s : State) : (writeF fl s).hl = s.hl := rfl
@[simp] theorem writeF_aAlt (fl : AluFlags) (s : State) : (writeF fl s).aAlt = s.aAlt := rfl
@[simp] theorem writeF_fAlt (fl : AluFlags) (s : State) : (writeF fl s).fAlt = s.fAlt := rfl
@[simp] theorem writeF_bcAlt (fl : AluFlags) (s : State) : (writeF fl s).bcAlt = s.bcAlt := rfl
@[simp] theorem writeF_deAlt (fl : AluFlags) (s : State) : (writeF fl s).deAlt = s.deAlt := rfl
@[simp] theorem writeF_hlAlt (fl : AluFlags) (s : State) : (writeF fl s).hlAlt = s.hlAlt := rfl
@[simp] theorem writeF_ix (fl : AluFlags) (s : State) : (writeF fl s).ix = s.ix := rfl
@[simp] theorem writeF_iy (fl : AluFlags) (s : State) : (writeF fl s).iy = s.iy := rfl
@[simp] theorem writeF_sp (fl : AluFlags) (s : State) : (writeF fl s).sp = s.sp := rfl
@[simp] theorem writeF_pc (fl : AluFlags) (s : State) : (writeF fl s).pc = s.pc := rfl
@[simp] theorem writeF_ir (fl : AluFlags) (s : State) : (writeF fl s).ir = s.ir := rfl
@[simp] theorem writeF_iff (fl : AluFlags) (s : State) : (writeF fl s).iff = s.iff := rfl
@[simp] theorem writeF_run (fl : AluFlags) (s : State) : (writeF fl s).run = s.run := rfl
@[simp] theorem writeF_irqPending (fl : AluFlags) (s : State) : (writeF fl s).irqPending = s.irqPending := rfl
@[simp] theorem writeF_slots (fl : AluFlags) (s : State) : (writeF fl s).slots = s.slots := rfl
@[simp] theorem writeF_mem (fl : AluFlags) (s : State) : (writeF fl s).mem = s.mem := rfl
@[simp] theorem writeF_fault (fl : AluFlags) (s : State) : (writeF fl s).fault = s.fault := rfl
@[simp] theorem writeF_params (fl : AluFlags) (s : State) : (writeF fl s).params = s.params := rfl
@[simp] theorem writeF_draws (fl : AluFlags) (s : State) : (writeF fl s).draws = s.draws + 2 := rfl
@[simp] theorem writeF_six (fl : AluFlags) (s : State) : (writeF fl s).f.six = fl := rfl
@[simp] theorem skipDraws_a (n : Nat) (s : State) : (skipDraws n s).a = s.a := rfl
@[simp] theorem skipDraws_f (n : Nat) (s : State) : (skipDraws n s).f = s.f := rfl
@[simp] theorem skipDraws_bc (n : Nat) (s : State) : (skipDraws n s).bc = s.bc := rfl
@[simp] theorem skipDraws_de (n : Nat) (s : State) : (skipDraws n s).de = s.de := rfl
@[simp] theorem skipDraws_hl (n : Nat) (s : State) : (skipDraws n s).hl = s.hl := rfl
@[simp] theorem skipDraws_aAlt (n : Nat) (s : State) : (skipDraws n s).aAlt = s.aAlt := rfl
@[simp] theorem skipDraws_fAlt (n : Nat) (s : State) : (skipDraws n s).fAlt = s.fAlt := rfl
@[simp] theorem skipDraws_bcAlt (n : Nat) (s : State) : (skipDraws n s).bcAlt = s.bcAlt := rfl
@[simp] theorem skipDraws_deAlt (n : Nat) (s : State) : (skipDraws n s).deAlt = s.deAlt := rfl
@[simp] theorem skipDraws_hlAlt (n : Nat) (s : State) : (skipDraws n s).hlAlt = s.hlAlt := rfl
@[simp] theorem skipDraws_ix (n : Nat) (s : State) : (skipDraws n s).ix = s.ix := rfl
@[simp] theorem skipDraws_iy (n : Nat) (s : State) : (skipDraws n s).iy = s.iy := rfl
@[simp] theorem skipDraws_sp (n : Nat) (s : State) : (skipDraws n s).sp = s.sp := rfl
@[simp] theorem skipDraws_pc (n : Nat) (s : State) : (skipDraws n s).pc = s.pc := rfl
@[simp] theorem skipDraws_ir (n : Nat) (s : State) : (skipDraws n s).ir = s.ir := rfl
@[simp] theorem skipDraws_iff (n : Nat) (s : State) : (skipDraws n s).iff = s.iff := rfl
@[simp] theorem skipDraws_run (n : Nat) (s : State) : (skipDraws n s).run = s.run := rfl
@[simp] theorem skipDraws_irqPending (n : Nat) (s : State) : (skipDraws n s).irqPending = s.irqPending := rfl
@[simp] theorem skipDraws_slots (n : Nat) (s : State) : (skipDraws n s).slots = s.slots := rfl
@[simp] theorem skipDraws_mem (n : Nat) (s : State) : (skipDraws n s).mem = s.mem := rfl
@[simp] theorem skipDraws_fault (n : Nat) (s : State) : (skipDraws n s).fault = s.fault := rfl
@[simp] theorem skipDraws_params (n : Nat) (s : State) : (skipDraws n s).params = s.params := rfl
@[simp] theorem skipDraws_draws (n : Nat) (s : State) : (skipDraws n s).draws = s.draws + n := rfl

/-! ## Registers -/

@[simp] theorem setReg8_f (r : Reg8) (v : Byte) (s : State) : (setReg8 r v s).f = s.f := by cases r <;> rfl
@[simp] theorem setReg8_aAlt (r : Reg8) (v : Byte) (s : State) : (setReg8 r v s).aAlt = s.aAlt := by cases r <;> rfl
@[simp] theorem setReg8_fAlt (r : Reg8) (v : Byte) (s : State) : (setReg8 r v s).fAlt = s.fAlt := by cases r <;> rfl
@[simp] theorem setReg8_bcAlt (r : Reg8) (v : Byte) (s : State) : (setReg8 r v s).bcAlt = s.bcAlt := by cases r <;> rfl
@[simp] theorem setReg8_deAlt (r : Reg8) (v : Byte) (s : State) : (setReg8 r v s).deAlt = s.deAlt := by cases r <;> rfl
@[simp] theorem setReg8_hlAlt (r : Reg8) (v : Byte) (s : State) : (setReg8 r v s).hlAlt = s.hlAlt := by cases r <;> rfl
@[simp] theorem setReg8_ix (r : Reg8) (v : Byte) (s : State) : (setReg8 r v s).ix = s.ix := by cases r <;> rfl
@[simp] theorem setReg8_iy (r : Reg8) (v : Byte) (s : State) : (setReg8 r v s).iy = s.iy := by cases r <;> rfl
@[simp] theorem setReg8_sp (r : Reg8) (v : Byte) (s : State) : (setReg8 r v s).sp = s.sp := by cases r <;> rfl
@[simp] theorem setReg8_pc (r : Reg8) (v : Byte) (s : State) : (setReg8 r v s).pc = s.pc := by cases r <;> rfl
@[simp] theorem setReg8_ir (r : Reg8) (v : Byte) (s : State) : (setReg8 r v s).ir = s.ir := by cases r <;> rfl
@[simp] theorem setReg8_iff (r : Reg8) (v : Byte) (s : State) : (setReg8 r v s).iff = s.iff := by cases r <;> rfl
@[simp] theorem setReg8_run (r : Reg8) (v : Byte) (s : State) : (setReg8 r v s).run = s.run := by cases r <;> rfl
@[simp] theorem setReg8_irqPending (r : Reg8) (v : Byte) (s : State) : (setReg8 r v s).irqPending = s.irqPending := by cases r <;> rfl
@[simp] theorem setReg8_slots (r : Reg8) (v : Byte) (s : State) : (setReg8 r v s).slots = s.slots := by cases r <;> rfl
@[simp] theorem setReg8_mem (r : Reg8) (v : Byte) (s : State) : (setReg8 r v s).mem = s.mem := by cases r <;> rfl
@[simp] theorem setReg8_fault (r : Reg8) (v : Byte) (s : State) : (setReg8 r v s).fault = s.fault := by cases r <;> rfl
@[simp] theorem setReg8_params (r : Reg8) (v : Byte) (s : State) : (setReg8 r v s).params = s.params := by cases r <;> rfl
@[simp] theorem setReg8_draws (r : Reg8) (v : Byte) (s : State) : (setReg8 r v s).draws = s.draws := by cases r <;> rfl
@[simp] theorem setPair_a (p : Pair) (v : Word) (s : State) : (setPair p v s).a = s.a := by cases p <;> rfl
@[simp] theorem setPair_f (p : Pair) (v : Word) (s : State) : (setPair p v s).f = s.f := by cases p <;> rfl
@[simp] theorem setPair_aAlt (p : Pair) (v : Word) (s : State) : (setPair p v s).aAlt = s.aAlt := by cases p <;> rfl
@[simp] theorem setPair_fAlt (p : Pair) (v : Word) (s : State) : (setPair p v s).fAlt = s.fAlt := by cases p <;> rfl
@[simp] theorem setPair_bcAlt (p : Pair) (v : Word) (s : State) : (setPair p v s).bcAlt = s.bcAlt := by cases p <;> rfl
@[simp] theorem setPair_deAlt (p : Pair) (v : Word) (s : State) : (setPair p v s).deAlt = s.deAlt := by cases p <;> rfl
@[simp] theorem setPair_hlAlt (p : Pair) (v : Word) (s : State) : (setPair p v s).hlAlt = s.hlAlt := by cases p <;> rfl
@[simp] theorem setPair_ix (p : Pair) (v : Word) (s : State) : (setPair p v s).ix = s.ix := by cases p <;> rfl
@[simp] theorem setPair_iy (p : Pair) (v : Word) (s : State) : (setPair p v s).iy = s.iy := by cases p <;> rfl
@[simp] theorem setPair_pc (p : Pair) (v : Word) (s : State) : (setPair p v s).pc = s.pc := by cases p <;> rfl
@[simp] theorem setPair_ir (p : Pair) (v : Word) (s : State) : (setPair p v s).ir = s.ir := by cases p <;> rfl
@[simp] theorem setPair_iff (p : Pair) (v : Word) (s : State) : (setPair p v s).iff = s.iff := by cases p <;> rfl
@[simp] theorem setPair_run (p : Pair) (v : Word) (s : State) : (setPair p v s).run = s.run := by cases p <;> rfl
@[simp] theorem setPair_irqPending (p : Pair) (v : Word) (s : State) : (setPair p v s).irqPending = s.irqPending := by cases p <;> rfl
@[simp] theorem setPair_slots (p : Pair) (v : Word) (s : State) : (setPair p v s).slots = s.slots := by cases p <;> rfl
@[simp] theorem setPair_mem (p : Pair) (v : Word) (s : State) : (setPair p v s).mem = s.mem := by cases p <;> rfl
@[simp] theorem setPair_fault (p : Pair) (v : Word) (s : State) : (setPair p v s).fault = s.fault := by cases p <;> rfl
@[simp] theorem setPair_params (p : Pair) (v : Word) (s : State) : (setPair p v s).params = s.params := by cases p <;> rfl
@[simp] theorem setPair_draws (p : Pair) (v : Word) (s : State) : (setPair p v s).draws = s.draws := by cases p <;> rfl
@[simp] theorem setStackPair_aAlt (q : StackPair) (v : Word) (s : State) : (setStackPair q v s).aAlt = s.aAlt := by cases q <;> rfl
@[simp] theorem setStackPair_fAlt (q : StackPair) (v : Word) (s : State) : (setStackPair q v s).fAlt = s.fAlt := by cases q <;> rfl
@[simp] theorem setStackPair_bcAlt (q : StackPair) (v : Word) (s : State) : (setStackPair q v s).bcAlt = s.bcAlt := by cases q <;> rfl
@[simp] theorem setStackPair_deAlt (q : StackPair) (v : Word) (s : State) : (setStackPair q v s).deAlt = s.deAlt := by cases q <;> rfl
@[simp] theorem setStackPair_hlAlt (q : StackPair) (v : Word) (s : State) : (setStackPair q v s).hlAlt = s.hlAlt := by cases q <;> rfl
@[simp] theorem setStackPair_ix (q : StackPair) (v : Word) (s : State) : (setStackPair q v s).ix = s.ix := by cases q <;> rfl
@[simp] theorem setStackPair_iy (q : StackPair) (v : Word) (s : State) : (setStackPair q v s).iy = s.iy := by cases q <;> rfl
@[simp] theorem setStackPair_sp (q : StackPair) (v : Word) (s : State) : (setStackPair q v s).sp = s.sp := by cases q <;> rfl
@[simp] theorem setStackPair_pc (q : StackPair) (v : Word) (s : State) : (setStackPair q v s).pc = s.pc := by cases q <;> rfl
@[simp] theorem setStackPair_ir (q : StackPair) (v : Word) (s : State) : (setStackPair q v s).ir = s.ir := by cases q <;> rfl
@[simp] theorem setStackPair_iff (q : StackPair) (v : Word) (s : State) : (setStackPair q v s).iff = s.iff := by cases q <;> rfl
@[simp] theorem setStackPair_run (q : StackPair) (v : Word) (s : State) : (setStackPair q v s).run = s.run := by cases q <;> rfl
@[simp] theorem setStackPair_irqPending (q : StackPair) (v : Word) (s : State) : (setStackPair q v s).irqPending = s.irqPending := by cases q <;> rfl
@[simp] theorem setStackPair_slots (q : StackPair) (v : Word) (s : State) : (setStackPair q v s).slots = s.slots := by cases q <;> rfl
@[simp] theorem setStackPair_mem (q : StackPair) (v : Word) (s : State) : (setStackPair q v s).mem = s.mem := by cases q <;> rfl
@[simp] theorem setStackPair_fault (q : StackPair) (v : Word) (s : State) : (setStackPair q v s).fault = s.fault := by cases q <;> rfl
@[simp] theorem setStackPair_params (q : StackPair) (v : Word) (s : State) : (setStackPair q v s).params = s.params := by cases q <;> rfl
@[simp] theorem setStackPair_draws (q : StackPair) (v : Word) (s : State) : (setStackPair q v s).draws = s.draws := by cases q <;> rfl
@[simp] theorem setIndex_a (x : Index) (v : Word) (s : State) : (setIndex x v s).a = s.a := by cases x <;> rfl
@[simp] theorem setIndex_f (x : Index) (v : Word) (s : State) : (setIndex x v s).f = s.f := by cases x <;> rfl
@[simp] theorem setIndex_bc (x : Index) (v : Word) (s : State) : (setIndex x v s).bc = s.bc := by cases x <;> rfl
@[simp] theorem setIndex_de (x : Index) (v : Word) (s : State) : (setIndex x v s).de = s.de := by cases x <;> rfl
@[simp] theorem setIndex_hl (x : Index) (v : Word) (s : State) : (setIndex x v s).hl = s.hl := by cases x <;> rfl
@[simp] theorem setIndex_aAlt (x : Index) (v : Word) (s : State) : (setIndex x v s).aAlt = s.aAlt := by cases x <;> rfl
@[simp] theorem setIndex_fAlt (x : Index) (v : Word) (s : State) : (setIndex x v s).fAlt = s.fAlt := by cases x <;> rfl
@[simp] theorem setIndex_bcAlt (x : Index) (v : Word) (s : State) : (setIndex x v s).bcAlt = s.bcAlt := by cases x <;> rfl
@[simp] theorem setIndex_deAlt (x : Index) (v : Word) (s : State) : (setIndex x v s).deAlt = s.deAlt := by cases x <;> rfl
@[simp] theorem setIndex_hlAlt (x : Index) (v : Word) (s : State) : (setIndex x v s).hlAlt = s.hlAlt := by cases x <;> rfl
@[simp] theorem setIndex_sp (x : Index) (v : Word) (s : State) : (setIndex x v s).sp = s.sp := by cases x <;> rfl
@[simp] theorem setIndex_pc (x : Index) (v : Word) (s : State) : (setIndex x v s).pc = s.pc := by cases x <;> rfl
@[simp] theorem setIndex_ir (x : Index) (v : Word) (s : State) : (setIndex x v s).ir = s.ir := by cases x <;> rfl
@[simp] theorem setIndex_iff (x : Index) (v : Word) (s : State) : (setIndex x v s).iff = s.iff := by cases x <;> rfl
@[simp] theorem setIndex_run (x : Index) (v : Word) (s : State) : (setIndex x v s).run = s.run := by cases x <;> rfl
@[simp] theorem setIndex_irqPending (x : Index) (v : Word) (s : State) : (setIndex x v s).irqPending = s.irqPending := by cases x <;> rfl
@[simp] theorem setIndex_slots (x : Index) (v : Word) (s : State) : (setIndex x v s).slots = s.slots := by cases x <;> rfl
@[simp] theorem setIndex_mem (x : Index) (v : Word) (s : State) : (setIndex x v s).mem = s.mem := by cases x <;> rfl
@[simp] theorem setIndex_fault (x : Index) (v : Word) (s : State) : (setIndex x v s).fault = s.fault := by cases x <;> rfl
@[simp] theorem setIndex_params (x : Index) (v : Word) (s : State) : (setIndex x v s).params = s.params := by cases x <;> rfl
@[simp] theorem setIndex_draws (x : Index) (v : Word) (s : State) : (setIndex x v s).draws = s.draws := by cases x <;> rfl

/-! ## Ports -/

@[simp] theorem afterPortIn_a (port : Byte) (s : State) : (afterPortIn port s).a = s.a := by unfold afterPortIn; split <;> rfl
@[simp] theorem afterPortIn_f (port : Byte) (s : State) : (afterPortIn port s).f = s.f := by unfold afterPortIn; split <;> rfl
@[simp] theorem afterPortIn_bc (port : Byte) (s : State) : (afterPortIn port s).bc = s.bc := by unfold afterPortIn; split <;> rfl
@[simp] theorem afterPortIn_de (port : Byte) (s : State) : (afterPortIn port s).de = s.de := by unfold afterPortIn; split <;> rfl
@[simp] theorem afterPortIn_hl (port : Byte) (s : State) : (afterPortIn port s).hl = s.hl := by unfold afterPortIn; split <;> rfl
@[simp] theorem afterPortIn_aAlt (port : Byte) (s : State) : (afterPortIn port s).aAlt = s.aAlt := by unfold afterPortIn; split <;> rfl
@[simp] theorem afterPortIn_fAlt (port : Byte) (s : State) : (afterPortIn port s).fAlt = s.fAlt := by unfold afterPortIn; split <;> rfl
@[simp] theorem afterPortIn_bcAlt (port : Byte) (s : State) : (afterPortIn port s).bcAlt = s.bcAlt := by unfold afterPortIn; split <;> rfl
@[simp] theorem afterPortIn_deAlt (port : Byte) (s : State) : (afterPortIn port s).deAlt = s.deAlt := by unfold afterPortIn; split <;> rfl
@[simp] theorem afterPortIn_hlAlt (port : Byte) (s : State) : (afterPortIn port s).hlAlt = s.hlAlt := by unfold afterPortIn; split <;> rfl
@[simp] theorem afterPortIn_ix (port : Byte) (s : State) : (afterPortIn port s).ix = s.ix := by unfold afterPortIn; split <;> rfl
@[simp] theorem afterPortIn_iy (port : Byte) (s : State) : (afterPortIn port s).iy = s.iy := by unfold afterPortIn; split <;> rfl
@[simp] theorem afterPortIn_sp (port : Byte) (s : State) : (afterPortIn port s).sp = s.sp := by unfold afterPortIn; split <;> rfl
@[simp] theorem afterPortIn_pc (port : Byte) (s : State) : (afterPortIn port s).pc = s.pc := by unfold afterPortIn; split <;> rfl
@[simp] theorem afterPortIn_ir (port : Byte) (s : State) : (afterPortIn port s).ir = s.ir := by unfold afterPortIn; split <;> rfl
@[simp] theorem afterPortIn_iff (port : Byte) (s : State) : (afterPortIn port s).iff = s.iff := by unfold afterPortIn; split <;> rfl
@[simp] theorem afterPortIn_run (port : Byte) (s : State) : (afterPortIn port s).run = s.run := by unfold afterPortIn; split <;> rfl
@[simp] theorem afterPortIn_mem (port : Byte) (s : State) : (afterPortIn port s).mem = s.mem := by unfold afterPortIn; split <;> rfl
@[simp] theorem afterPortIn_fault (port : Byte) (s : State) : (afterPortIn port s).fault = s.fault := by unfold afterPortIn; split <;> rfl
@[simp] theorem afterPortIn_params (port : Byte) (s : State) : (afterPortIn port s).params = s.params := by unfold afterPortIn; split <;> rfl
@[simp] theorem afterPortIn_draws (port : Byte) (s : State) : (afterPortIn port s).draws = s.draws := by unfold afterPortIn; split <;> rfl
@[simp] theorem portOut_a (port v : Byte) (s : State) : (portOut port v s).a = s.a := by unfold portOut; split <;> rfl
@[simp] theorem portOut_f (port v : Byte) (s : State) : (portOut port v s).f = s.f := by unfold portOut; split <;> rfl
@[simp] theorem portOut_bc (port v : Byte) (s : State) : (portOut port v s).bc = s.bc := by unfold portOut; split <;> rfl
@[simp] theorem portOut_de (port v : Byte) (s : State) : (portOut port v s).de = s.de := by unfold portOut; split <;> rfl
@[simp] theorem portOut_hl (port v : Byte) (s : State) : (portOut port v s).hl = s.hl := by unfold portOut; split <;> rfl
@[simp] theorem portOut_aAlt (port v : Byte) (s : State) : (portOut port v s).aAlt = s.aAlt := by unfold portOut; split <;> rfl
@[simp] theorem portOut_fAlt (port v : Byte) (s : State) : (portOut port v s).fAlt = s.fAlt := by unfold portOut; split <;> rfl
@[simp] theorem portOut_bcAlt (port v : Byte) (s : State) : (portOut port v s).bcAlt = s.bcAlt := by unfold portOut; split <;> rfl
@[simp] theorem portOut_deAlt (port v : Byte) (s : State) : (portOut port v s).deAlt = s.deAlt := by unfold portOut; split <;> rfl
@[simp] theorem portOut_hlAlt (port v : Byte) (s : State) : (portOut port v s).hlAlt = s.hlAlt := by unfold portOut; split <;> rfl
@[simp] theorem portOut_ix (port v : Byte) (s : State) : (portOut port v s).ix = s.ix := by unfold portOut; split <;> rfl
@[simp] theorem portOut_iy (port v : Byte) (s : State) : (portOut port v s).iy = s.iy := by unfold portOut; split <;> rfl
@[simp] theorem portOut_sp (port v : Byte) (s : State) : (portOut port v s).sp = s.sp := by unfold portOut; split <;> rfl
@[simp] theorem portOut_pc (port v : Byte) (s : State) : (portOut port v s).pc = s.pc := by unfold portOut; split <;> rfl
@[simp] theorem portOut_ir (port v : Byte) (s : State) : (portOut port v s).ir = s.ir := by unfold portOut; split <;> rfl
@[simp] theorem portOut_iff (port v : Byte) (s : State) : (portOut port v s).iff = s.iff := by unfold portOut; split <;> rfl
@[simp] theorem portOut_run (port v : Byte) (s : State) : (portOut port v s).run = s.run := by unfold portOut; split <;> rfl
@[simp] theorem portOut_mem (port v : Byte) (s : State) : (portOut port v s).mem = s.mem := by unfold portOut; split <;> rfl
@[simp] theorem portOut_fault (port v : Byte) (s : State) : (portOut port v s).fault = s.fault := by unfold portOut; split <;> rfl
@[simp] theorem portOut_params (port v : Byte) (s : State) : (portOut port v s).params = s.params := by unfold portOut; split <;> rfl
@[simp] theorem portOut_draws (port v : Byte) (s : State) : (portOut port v s).draws = s.draws := by unfold portOut; split <;> rfl

/-! ## Calls, returns, the interrupt entry -/

@[simp] theorem call_a (target : Word) (s : State) : (call target s).a = s.a := rfl
@[simp] theorem call_f (target : Word) (s : State) : (call target s).f = s.f := rfl
@[simp] theorem call_bc (target : Word) (s : State) : (call target s).bc = s.bc := rfl
@[simp] theorem call_de (target : Word) (s : State) : (call target s).de = s.de := rfl
@[simp] theorem call_hl (target : Word) (s : State) : (call target s).hl = s.hl := rfl
@[simp] theorem call_aAlt (target : Word) (s : State) : (call target s).aAlt = s.aAlt := rfl
@[simp] theorem call_fAlt (target : Word) (s : State) : (call target s).fAlt = s.fAlt := rfl
@[simp] theorem call_bcAlt (target : Word) (s : State) : (call target s).bcAlt = s.bcAlt := rfl
@[simp] theorem call_deAlt (target : Word) (s : State) : (call target s).deAlt = s.deAlt := rfl
@[simp] theorem call_hlAlt (target : Word) (s : State) : (call target s).hlAlt = s.hlAlt := rfl
@[simp] theorem call_ix (target : Word) (s : State) : (call target s).ix = s.ix := rfl
@[simp] theorem call_iy (target : Word) (s : State) : (call target s).iy = s.iy := rfl
@[simp] theorem call_pc (target : Word) (s : State) : (call target s).pc = target := rfl
@[simp] theorem call_ir (target : Word) (s : State) : (call target s).ir = s.ir := rfl
@[simp] theorem call_iff (target : Word) (s : State) : (call target s).iff = s.iff := rfl
@[simp] theorem call_run (target : Word) (s : State) : (call target s).run = s.run := rfl
@[simp] theorem call_irqPending (target : Word) (s : State) : (call target s).irqPending = s.irqPending := rfl
@[simp] theorem call_slots (target : Word) (s : State) : (call target s).slots = s.slots := rfl
@[simp] theorem call_fault (target : Word) (s : State) : (call target s).fault = s.fault := rfl
@[simp] theorem call_params (target : Word) (s : State) : (call target s).params = s.params := rfl
@[simp] theorem call_draws (target : Word) (s : State) : (call target s).draws = s.draws := rfl
@[simp] theorem returnTo_a (s : State) : (returnTo s).a = s.a := rfl
@[simp] theorem returnTo_f (s : State) : (returnTo s).f = s.f := rfl
@[simp] theorem returnTo_bc (s : State) : (returnTo s).bc = s.bc := rfl
@[simp] theorem returnTo_de (s : State) : (returnTo s).de = s.de := rfl
@[simp] theorem returnTo_hl (s : State) : (returnTo s).hl = s.hl := rfl
@[simp] theorem returnTo_aAlt (s : State) : (returnTo s).aAlt = s.aAlt := rfl
@[simp] theorem returnTo_fAlt (s : State) : (returnTo s).fAlt = s.fAlt := rfl
@[simp] theorem returnTo_bcAlt (s : State) : (returnTo s).bcAlt = s.bcAlt := rfl
@[simp] theorem returnTo_deAlt (s : State) : (returnTo s).deAlt = s.deAlt := rfl
@[simp] theorem returnTo_hlAlt (s : State) : (returnTo s).hlAlt = s.hlAlt := rfl
@[simp] theorem returnTo_ix (s : State) : (returnTo s).ix = s.ix := rfl
@[simp] theorem returnTo_iy (s : State) : (returnTo s).iy = s.iy := rfl
@[simp] theorem returnTo_sp (s : State) : (returnTo s).sp = s.sp + 2 := rfl
@[simp] theorem returnTo_pc (s : State) : (returnTo s).pc = popped s := rfl
@[simp] theorem returnTo_ir (s : State) : (returnTo s).ir = s.ir := rfl
@[simp] theorem returnTo_iff (s : State) : (returnTo s).iff = s.iff := rfl
@[simp] theorem returnTo_run (s : State) : (returnTo s).run = s.run := rfl
@[simp] theorem returnTo_irqPending (s : State) : (returnTo s).irqPending = s.irqPending := rfl
@[simp] theorem returnTo_slots (s : State) : (returnTo s).slots = s.slots := rfl
@[simp] theorem returnTo_mem (s : State) : (returnTo s).mem = s.mem := rfl
@[simp] theorem returnTo_fault (s : State) : (returnTo s).fault = s.fault := rfl
@[simp] theorem returnTo_params (s : State) : (returnTo s).params = s.params := rfl
@[simp] theorem returnTo_draws (s : State) : (returnTo s).draws = s.draws := rfl
@[simp] theorem takeInterrupt_a (s : State) : (takeInterrupt s).a = s.a := rfl
@[simp] theorem takeInterrupt_f (s : State) : (takeInterrupt s).f = s.f := rfl
@[simp] theorem takeInterrupt_bc (s : State) : (takeInterrupt s).bc = s.bc := rfl
@[simp] theorem takeInterrupt_de (s : State) : (takeInterrupt s).de = s.de := rfl
@[simp] theorem takeInterrupt_hl (s : State) : (takeInterrupt s).hl = s.hl := rfl
@[simp] theorem takeInterrupt_aAlt (s : State) : (takeInterrupt s).aAlt = s.aAlt := rfl
@[simp] theorem takeInterrupt_fAlt (s : State) : (takeInterrupt s).fAlt = s.fAlt := rfl
@[simp] theorem takeInterrupt_bcAlt (s : State) : (takeInterrupt s).bcAlt = s.bcAlt := rfl
@[simp] theorem takeInterrupt_deAlt (s : State) : (takeInterrupt s).deAlt = s.deAlt := rfl
@[simp] theorem takeInterrupt_hlAlt (s : State) : (takeInterrupt s).hlAlt = s.hlAlt := rfl
@[simp] theorem takeInterrupt_ix (s : State) : (takeInterrupt s).ix = s.ix := rfl
@[simp] theorem takeInterrupt_iy (s : State) : (takeInterrupt s).iy = s.iy := rfl
@[simp] theorem takeInterrupt_pc (s : State) : (takeInterrupt s).pc = interruptVector := rfl
@[simp] theorem takeInterrupt_ir (s : State) : (takeInterrupt s).ir = s.ir := rfl
@[simp] theorem takeInterrupt_run (s : State) : (takeInterrupt s).run = .running := rfl
@[simp] theorem takeInterrupt_irqPending (s : State) : (takeInterrupt s).irqPending = false := rfl
@[simp] theorem takeInterrupt_slots (s : State) : (takeInterrupt s).slots = s.slots := rfl
@[simp] theorem takeInterrupt_fault (s : State) : (takeInterrupt s).fault = s.fault := rfl
@[simp] theorem takeInterrupt_params (s : State) : (takeInterrupt s).params = s.params := rfl
@[simp] theorem takeInterrupt_draws (s : State) : (takeInterrupt s).draws = s.draws := rfl

/-! ## The operations that several instructions share -/

@[simp] theorem setAcc_a (r : Byte × AluFlags) (s : State) : (setAcc r s).a = r.1 := rfl
@[simp] theorem setAcc_bc (r : Byte × AluFlags) (s : State) : (setAcc r s).bc = s.bc := rfl
@[simp] theorem setAcc_de (r : Byte × AluFlags) (s : State) : (setAcc r s).de = s.de := rfl
@[simp] theorem setAcc_hl (r : Byte × AluFlags) (s : State) : (setAcc r s).hl = s.hl := rfl
@[simp] theorem setAcc_aAlt (r : Byte × AluFlags) (s : State) : (setAcc r s).aAlt = s.aAlt := rfl
@[simp] theorem setAcc_fAlt (r : Byte × AluFlags) (s : State) : (setAcc r s).fAlt = s.fAlt := rfl
@[simp] theorem setAcc_bcAlt (r : Byte × AluFlags) (s : State) : (setAcc r s).bcAlt = s.bcAlt := rfl
@[simp] theorem setAcc_deAlt (r : Byte × AluFlags) (s : State) : (setAcc r s).deAlt = s.deAlt := rfl
@[simp] theorem setAcc_hlAlt (r : Byte × AluFlags) (s : State) : (setAcc r s).hlAlt = s.hlAlt := rfl
@[simp] theorem setAcc_ix (r : Byte × AluFlags) (s : State) : (setAcc r s).ix = s.ix := rfl
@[simp] theorem setAcc_iy (r : Byte × AluFlags) (s : State) : (setAcc r s).iy = s.iy := rfl
@[simp] theorem setAcc_sp (r : Byte × AluFlags) (s : State) : (setAcc r s).sp = s.sp := rfl
@[simp] theorem setAcc_pc (r : Byte × AluFlags) (s : State) : (setAcc r s).pc = s.pc := rfl
@[simp] theorem setAcc_ir (r : Byte × AluFlags) (s : State) : (setAcc r s).ir = s.ir := rfl
@[simp] theorem setAcc_iff (r : Byte × AluFlags) (s : State) : (setAcc r s).iff = s.iff := rfl
@[simp] theorem setAcc_run (r : Byte × AluFlags) (s : State) : (setAcc r s).run = s.run := rfl
@[simp] theorem setAcc_irqPending (r : Byte × AluFlags) (s : State) : (setAcc r s).irqPending = s.irqPending := rfl
@[simp] theorem setAcc_slots (r : Byte × AluFlags) (s : State) : (setAcc r s).slots = s.slots := rfl
@[simp] theorem setAcc_mem (r : Byte × AluFlags) (s : State) : (setAcc r s).mem = s.mem := rfl
@[simp] theorem setAcc_fault (r : Byte × AluFlags) (s : State) : (setAcc r s).fault = s.fault := rfl
@[simp] theorem setAcc_params (r : Byte × AluFlags) (s : State) : (setAcc r s).params = s.params := rfl
@[simp] theorem setAcc_draws (r : Byte × AluFlags) (s : State) : (setAcc r s).draws = s.draws + 2 := rfl
@[simp] theorem setHl16_a (r : Word × AluFlags) (s : State) : (setHl16 r s).a = s.a := rfl
@[simp] theorem setHl16_bc (r : Word × AluFlags) (s : State) : (setHl16 r s).bc = s.bc := rfl
@[simp] theorem setHl16_de (r : Word × AluFlags) (s : State) : (setHl16 r s).de = s.de := rfl
@[simp] theorem setHl16_hl (r : Word × AluFlags) (s : State) : (setHl16 r s).hl = r.1 := rfl
@[simp] theorem setHl16_aAlt (r : Word × AluFlags) (s : State) : (setHl16 r s).aAlt = s.aAlt := rfl
@[simp] theorem setHl16_fAlt (r : Word × AluFlags) (s : State) : (setHl16 r s).fAlt = s.fAlt := rfl
@[simp] theorem setHl16_bcAlt (r : Word × AluFlags) (s : State) : (setHl16 r s).bcAlt = s.bcAlt := rfl
@[simp] theorem setHl16_deAlt (r : Word × AluFlags) (s : State) : (setHl16 r s).deAlt = s.deAlt := rfl
@[simp] theorem setHl16_hlAlt (r : Word × AluFlags) (s : State) : (setHl16 r s).hlAlt = s.hlAlt := rfl
@[simp] theorem setHl16_ix (r : Word × AluFlags) (s : State) : (setHl16 r s).ix = s.ix := rfl
@[simp] theorem setHl16_iy (r : Word × AluFlags) (s : State) : (setHl16 r s).iy = s.iy := rfl
@[simp] theorem setHl16_sp (r : Word × AluFlags) (s : State) : (setHl16 r s).sp = s.sp := rfl
@[simp] theorem setHl16_pc (r : Word × AluFlags) (s : State) : (setHl16 r s).pc = s.pc := rfl
@[simp] theorem setHl16_ir (r : Word × AluFlags) (s : State) : (setHl16 r s).ir = s.ir := rfl
@[simp] theorem setHl16_iff (r : Word × AluFlags) (s : State) : (setHl16 r s).iff = s.iff := rfl
@[simp] theorem setHl16_run (r : Word × AluFlags) (s : State) : (setHl16 r s).run = s.run := rfl
@[simp] theorem setHl16_irqPending (r : Word × AluFlags) (s : State) : (setHl16 r s).irqPending = s.irqPending := rfl
@[simp] theorem setHl16_slots (r : Word × AluFlags) (s : State) : (setHl16 r s).slots = s.slots := rfl
@[simp] theorem setHl16_mem (r : Word × AluFlags) (s : State) : (setHl16 r s).mem = s.mem := rfl
@[simp] theorem setHl16_fault (r : Word × AluFlags) (s : State) : (setHl16 r s).fault = s.fault := rfl
@[simp] theorem setHl16_params (r : Word × AluFlags) (s : State) : (setHl16 r s).params = s.params := rfl
@[simp] theorem setHl16_draws (r : Word × AluFlags) (s : State) : (setHl16 r s).draws = s.draws + 2 := rfl
@[simp] theorem bitTest_a (v : Byte) (b : BitVec 3) (s : State) : (bitTest v b s).a = s.a := rfl
@[simp] theorem bitTest_bc (v : Byte) (b : BitVec 3) (s : State) : (bitTest v b s).bc = s.bc := rfl
@[simp] theorem bitTest_de (v : Byte) (b : BitVec 3) (s : State) : (bitTest v b s).de = s.de := rfl
@[simp] theorem bitTest_hl (v : Byte) (b : BitVec 3) (s : State) : (bitTest v b s).hl = s.hl := rfl
@[simp] theorem bitTest_aAlt (v : Byte) (b : BitVec 3) (s : State) : (bitTest v b s).aAlt = s.aAlt := rfl
@[simp] theorem bitTest_fAlt (v : Byte) (b : BitVec 3) (s : State) : (bitTest v b s).fAlt = s.fAlt := rfl
@[simp] theorem bitTest_bcAlt (v : Byte) (b : BitVec 3) (s : State) : (bitTest v b s).bcAlt = s.bcAlt := rfl
@[simp] theorem bitTest_deAlt (v : Byte) (b : BitVec 3) (s : State) : (bitTest v b s).deAlt = s.deAlt := rfl
@[simp] theorem bitTest_hlAlt (v : Byte) (b : BitVec 3) (s : State) : (bitTest v b s).hlAlt = s.hlAlt := rfl
@[simp] theorem bitTest_ix (v : Byte) (b : BitVec 3) (s : State) : (bitTest v b s).ix = s.ix := rfl
@[simp] theorem bitTest_iy (v : Byte) (b : BitVec 3) (s : State) : (bitTest v b s).iy = s.iy := rfl
@[simp] theorem bitTest_sp (v : Byte) (b : BitVec 3) (s : State) : (bitTest v b s).sp = s.sp := rfl
@[simp] theorem bitTest_pc (v : Byte) (b : BitVec 3) (s : State) : (bitTest v b s).pc = s.pc := rfl
@[simp] theorem bitTest_ir (v : Byte) (b : BitVec 3) (s : State) : (bitTest v b s).ir = s.ir := rfl
@[simp] theorem bitTest_iff (v : Byte) (b : BitVec 3) (s : State) : (bitTest v b s).iff = s.iff := rfl
@[simp] theorem bitTest_run (v : Byte) (b : BitVec 3) (s : State) : (bitTest v b s).run = s.run := rfl
@[simp] theorem bitTest_irqPending (v : Byte) (b : BitVec 3) (s : State) : (bitTest v b s).irqPending = s.irqPending := rfl
@[simp] theorem bitTest_slots (v : Byte) (b : BitVec 3) (s : State) : (bitTest v b s).slots = s.slots := rfl
@[simp] theorem bitTest_mem (v : Byte) (b : BitVec 3) (s : State) : (bitTest v b s).mem = s.mem := rfl
@[simp] theorem bitTest_fault (v : Byte) (b : BitVec 3) (s : State) : (bitTest v b s).fault = s.fault := rfl
@[simp] theorem bitTest_params (v : Byte) (b : BitVec 3) (s : State) : (bitTest v b s).params = s.params := rfl
@[simp] theorem bitTest_draws (v : Byte) (b : BitVec 3) (s : State) : (bitTest v b s).draws = s.draws + 2 := rfl
@[simp] theorem incReg_aAlt (r : Reg8) (s : State) : (incReg r s).aAlt = s.aAlt := by simp [incReg]
@[simp] theorem incReg_fAlt (r : Reg8) (s : State) : (incReg r s).fAlt = s.fAlt := by simp [incReg]
@[simp] theorem incReg_bcAlt (r : Reg8) (s : State) : (incReg r s).bcAlt = s.bcAlt := by simp [incReg]
@[simp] theorem incReg_deAlt (r : Reg8) (s : State) : (incReg r s).deAlt = s.deAlt := by simp [incReg]
@[simp] theorem incReg_hlAlt (r : Reg8) (s : State) : (incReg r s).hlAlt = s.hlAlt := by simp [incReg]
@[simp] theorem incReg_ix (r : Reg8) (s : State) : (incReg r s).ix = s.ix := by simp [incReg]
@[simp] theorem incReg_iy (r : Reg8) (s : State) : (incReg r s).iy = s.iy := by simp [incReg]
@[simp] theorem incReg_sp (r : Reg8) (s : State) : (incReg r s).sp = s.sp := by simp [incReg]
@[simp] theorem incReg_pc (r : Reg8) (s : State) : (incReg r s).pc = s.pc := by simp [incReg]
@[simp] theorem incReg_ir (r : Reg8) (s : State) : (incReg r s).ir = s.ir := by simp [incReg]
@[simp] theorem incReg_iff (r : Reg8) (s : State) : (incReg r s).iff = s.iff := by simp [incReg]
@[simp] theorem incReg_run (r : Reg8) (s : State) : (incReg r s).run = s.run := by simp [incReg]
@[simp] theorem incReg_irqPending (r : Reg8) (s : State) : (incReg r s).irqPending = s.irqPending := by simp [incReg]
@[simp] theorem incReg_slots (r : Reg8) (s : State) : (incReg r s).slots = s.slots := by simp [incReg]
@[simp] theorem incReg_mem (r : Reg8) (s : State) : (incReg r s).mem = s.mem := by simp [incReg]
@[simp] theorem incReg_fault (r : Reg8) (s : State) : (incReg r s).fault = s.fault := by simp [incReg]
@[simp] theorem incReg_params (r : Reg8) (s : State) : (incReg r s).params = s.params := by simp [incReg]
@[simp] theorem incReg_draws (r : Reg8) (s : State) : (incReg r s).draws = s.draws + 2 := by simp [incReg]
@[simp] theorem decReg_aAlt (r : Reg8) (s : State) : (decReg r s).aAlt = s.aAlt := by simp [decReg]
@[simp] theorem decReg_fAlt (r : Reg8) (s : State) : (decReg r s).fAlt = s.fAlt := by simp [decReg]
@[simp] theorem decReg_bcAlt (r : Reg8) (s : State) : (decReg r s).bcAlt = s.bcAlt := by simp [decReg]
@[simp] theorem decReg_deAlt (r : Reg8) (s : State) : (decReg r s).deAlt = s.deAlt := by simp [decReg]
@[simp] theorem decReg_hlAlt (r : Reg8) (s : State) : (decReg r s).hlAlt = s.hlAlt := by simp [decReg]
@[simp] theorem decReg_ix (r : Reg8) (s : State) : (decReg r s).ix = s.ix := by simp [decReg]
@[simp] theorem decReg_iy (r : Reg8) (s : State) : (decReg r s).iy = s.iy := by simp [decReg]
@[simp] theorem decReg_sp (r : Reg8) (s : State) : (decReg r s).sp = s.sp := by simp [decReg]
@[simp] theorem decReg_pc (r : Reg8) (s : State) : (decReg r s).pc = s.pc := by simp [decReg]
@[simp] theorem decReg_ir (r : Reg8) (s : State) : (decReg r s).ir = s.ir := by simp [decReg]
@[simp] theorem decReg_iff (r : Reg8) (s : State) : (decReg r s).iff = s.iff := by simp [decReg]
@[simp] theorem decReg_run (r : Reg8) (s : State) : (decReg r s).run = s.run := by simp [decReg]
@[simp] theorem decReg_irqPending (r : Reg8) (s : State) : (decReg r s).irqPending = s.irqPending := by simp [decReg]
@[simp] theorem decReg_slots (r : Reg8) (s : State) : (decReg r s).slots = s.slots := by simp [decReg]
@[simp] theorem decReg_mem (r : Reg8) (s : State) : (decReg r s).mem = s.mem := by simp [decReg]
@[simp] theorem decReg_fault (r : Reg8) (s : State) : (decReg r s).fault = s.fault := by simp [decReg]
@[simp] theorem decReg_params (r : Reg8) (s : State) : (decReg r s).params = s.params := by simp [decReg]
@[simp] theorem decReg_draws (r : Reg8) (s : State) : (decReg r s).draws = s.draws + 2 := by simp [decReg]
@[simp] theorem rotReg_aAlt (g : Byte → Byte × Bool) (r : Reg8) (s : State) : (rotReg g r s).aAlt = s.aAlt := by simp [rotReg]
@[simp] theorem rotReg_fAlt (g : Byte → Byte × Bool) (r : Reg8) (s : State) : (rotReg g r s).fAlt = s.fAlt := by simp [rotReg]
@[simp] theorem rotReg_bcAlt (g : Byte → Byte × Bool) (r : Reg8) (s : State) : (rotReg g r s).bcAlt = s.bcAlt := by simp [rotReg]
@[simp] theorem rotReg_deAlt (g : Byte → Byte × Bool) (r : Reg8) (s : State) : (rotReg g r s).deAlt = s.deAlt := by simp [rotReg]
@[simp] theorem rotReg_hlAlt (g : Byte → Byte × Bool) (r : Reg8) (s : State) : (rotReg g r s).hlAlt = s.hlAlt := by simp [rotReg]
@[simp] theorem rotReg_ix (g : Byte → Byte × Bool) (r : Reg8) (s : State) : (rotReg g r s).ix = s.ix := by simp [rotReg]
@[simp] theorem rotReg_iy (g : Byte → Byte × Bool) (r : Reg8) (s : State) : (rotReg g r s).iy = s.iy := by simp [rotReg]
@[simp] theorem rotReg_sp (g : Byte → Byte × Bool) (r : Reg8) (s : State) : (rotReg g r s).sp = s.sp := by simp [rotReg]
@[simp] theorem rotReg_pc (g : Byte → Byte × Bool) (r : Reg8) (s : State) : (rotReg g r s).pc = s.pc := by simp [rotReg]
@[simp] theorem rotReg_ir (g : Byte → Byte × Bool) (r : Reg8) (s : State) : (rotReg g r s).ir = s.ir := by simp [rotReg]
@[simp] theorem rotReg_iff (g : Byte → Byte × Bool) (r : Reg8) (s : State) : (rotReg g r s).iff = s.iff := by simp [rotReg]
@[simp] theorem rotReg_run (g : Byte → Byte × Bool) (r : Reg8) (s : State) : (rotReg g r s).run = s.run := by simp [rotReg]
@[simp] theorem rotReg_irqPending (g : Byte → Byte × Bool) (r : Reg8) (s : State) : (rotReg g r s).irqPending = s.irqPending := by simp [rotReg]
@[simp] theorem rotReg_slots (g : Byte → Byte × Bool) (r : Reg8) (s : State) : (rotReg g r s).slots = s.slots := by simp [rotReg]
@[simp] theorem rotReg_mem (g : Byte → Byte × Bool) (r : Reg8) (s : State) : (rotReg g r s).mem = s.mem := by simp [rotReg]
@[simp] theorem rotReg_fault (g : Byte → Byte × Bool) (r : Reg8) (s : State) : (rotReg g r s).fault = s.fault := by simp [rotReg]
@[simp] theorem rotReg_params (g : Byte → Byte × Bool) (r : Reg8) (s : State) : (rotReg g r s).params = s.params := by simp [rotReg]
@[simp] theorem rotReg_draws (g : Byte → Byte × Bool) (r : Reg8) (s : State) : (rotReg g r s).draws = s.draws + 2 := by simp [rotReg]
@[simp] theorem incMem_a (a : Word) (s : State) : (incMem a s).a = s.a := rfl
@[simp] theorem incMem_bc (a : Word) (s : State) : (incMem a s).bc = s.bc := rfl
@[simp] theorem incMem_de (a : Word) (s : State) : (incMem a s).de = s.de := rfl
@[simp] theorem incMem_hl (a : Word) (s : State) : (incMem a s).hl = s.hl := rfl
@[simp] theorem incMem_aAlt (a : Word) (s : State) : (incMem a s).aAlt = s.aAlt := rfl
@[simp] theorem incMem_fAlt (a : Word) (s : State) : (incMem a s).fAlt = s.fAlt := rfl
@[simp] theorem incMem_bcAlt (a : Word) (s : State) : (incMem a s).bcAlt = s.bcAlt := rfl
@[simp] theorem incMem_deAlt (a : Word) (s : State) : (incMem a s).deAlt = s.deAlt := rfl
@[simp] theorem incMem_hlAlt (a : Word) (s : State) : (incMem a s).hlAlt = s.hlAlt := rfl
@[simp] theorem incMem_ix (a : Word) (s : State) : (incMem a s).ix = s.ix := rfl
@[simp] theorem incMem_iy (a : Word) (s : State) : (incMem a s).iy = s.iy := rfl
@[simp] theorem incMem_sp (a : Word) (s : State) : (incMem a s).sp = s.sp := rfl
@[simp] theorem incMem_pc (a : Word) (s : State) : (incMem a s).pc = s.pc := rfl
@[simp] theorem incMem_ir (a : Word) (s : State) : (incMem a s).ir = s.ir := rfl
@[simp] theorem incMem_iff (a : Word) (s : State) : (incMem a s).iff = s.iff := rfl
@[simp] theorem incMem_run (a : Word) (s : State) : (incMem a s).run = s.run := rfl
@[simp] theorem incMem_irqPending (a : Word) (s : State) : (incMem a s).irqPending = s.irqPending := rfl
@[simp] theorem incMem_slots (a : Word) (s : State) : (incMem a s).slots = s.slots := rfl
@[simp] theorem incMem_fault (a : Word) (s : State) : (incMem a s).fault = s.fault := rfl
@[simp] theorem incMem_params (a : Word) (s : State) : (incMem a s).params = s.params := rfl
@[simp] theorem incMem_draws (a : Word) (s : State) : (incMem a s).draws = s.draws + 2 := rfl
@[simp] theorem decMem_a (a : Word) (s : State) : (decMem a s).a = s.a := rfl
@[simp] theorem decMem_bc (a : Word) (s : State) : (decMem a s).bc = s.bc := rfl
@[simp] theorem decMem_de (a : Word) (s : State) : (decMem a s).de = s.de := rfl
@[simp] theorem decMem_hl (a : Word) (s : State) : (decMem a s).hl = s.hl := rfl
@[simp] theorem decMem_aAlt (a : Word) (s : State) : (decMem a s).aAlt = s.aAlt := rfl
@[simp] theorem decMem_fAlt (a : Word) (s : State) : (decMem a s).fAlt = s.fAlt := rfl
@[simp] theorem decMem_bcAlt (a : Word) (s : State) : (decMem a s).bcAlt = s.bcAlt := rfl
@[simp] theorem decMem_deAlt (a : Word) (s : State) : (decMem a s).deAlt = s.deAlt := rfl
@[simp] theorem decMem_hlAlt (a : Word) (s : State) : (decMem a s).hlAlt = s.hlAlt := rfl
@[simp] theorem decMem_ix (a : Word) (s : State) : (decMem a s).ix = s.ix := rfl
@[simp] theorem decMem_iy (a : Word) (s : State) : (decMem a s).iy = s.iy := rfl
@[simp] theorem decMem_sp (a : Word) (s : State) : (decMem a s).sp = s.sp := rfl
@[simp] theorem decMem_pc (a : Word) (s : State) : (decMem a s).pc = s.pc := rfl
@[simp] theorem decMem_ir (a : Word) (s : State) : (decMem a s).ir = s.ir := rfl
@[simp] theorem decMem_iff (a : Word) (s : State) : (decMem a s).iff = s.iff := rfl
@[simp] theorem decMem_run (a : Word) (s : State) : (decMem a s).run = s.run := rfl
@[simp] theorem decMem_irqPending (a : Word) (s : State) : (decMem a s).irqPending = s.irqPending := rfl
@[simp] theorem decMem_slots (a : Word) (s : State) : (decMem a s).slots = s.slots := rfl
@[simp] theorem decMem_fault (a : Word) (s : State) : (decMem a s).fault = s.fault := rfl
@[simp] theorem decMem_params (a : Word) (s : State) : (decMem a s).params = s.params := rfl
@[simp] theorem decMem_draws (a : Word) (s : State) : (decMem a s).draws = s.draws + 2 := rfl
@[simp] theorem rotMem_a (g : Byte → Byte × Bool) (a : Word) (s : State) : (rotMem g a s).a = s.a := rfl
@[simp] theorem rotMem_bc (g : Byte → Byte × Bool) (a : Word) (s : State) : (rotMem g a s).bc = s.bc := rfl
@[simp] theorem rotMem_de (g : Byte → Byte × Bool) (a : Word) (s : State) : (rotMem g a s).de = s.de := rfl
@[simp] theorem rotMem_hl (g : Byte → Byte × Bool) (a : Word) (s : State) : (rotMem g a s).hl = s.hl := rfl
@[simp] theorem rotMem_aAlt (g : Byte → Byte × Bool) (a : Word) (s : State) : (rotMem g a s).aAlt = s.aAlt := rfl
@[simp] theorem rotMem_fAlt (g : Byte → Byte × Bool) (a : Word) (s : State) : (rotMem g a s).fAlt = s.fAlt := rfl
@[simp] theorem rotMem_bcAlt (g : Byte → Byte × Bool) (a : Word) (s : State) : (rotMem g a s).bcAlt = s.bcAlt := rfl
@[simp] theorem rotMem_deAlt (g : Byte → Byte × Bool) (a : Word) (s : State) : (rotMem g a s).deAlt = s.deAlt := rfl
@[simp] theorem rotMem_hlAlt (g : Byte → Byte × Bool) (a : Word) (s : State) : (rotMem g a s).hlAlt = s.hlAlt := rfl
@[simp] theorem rotMem_ix (g : Byte → Byte × Bool) (a : Word) (s : State) : (rotMem g a s).ix = s.ix := rfl
@[simp] theorem rotMem_iy (g : Byte → Byte × Bool) (a : Word) (s : State) : (rotMem g a s).iy = s.iy := rfl
@[simp] theorem rotMem_sp (g : Byte → Byte × Bool) (a : Word) (s : State) : (rotMem g a s).sp = s.sp := rfl
@[simp] theorem rotMem_pc (g : Byte → Byte × Bool) (a : Word) (s : State) : (rotMem g a s).pc = s.pc := rfl
@[simp] theorem rotMem_ir (g : Byte → Byte × Bool) (a : Word) (s : State) : (rotMem g a s).ir = s.ir := rfl
@[simp] theorem rotMem_iff (g : Byte → Byte × Bool) (a : Word) (s : State) : (rotMem g a s).iff = s.iff := rfl
@[simp] theorem rotMem_run (g : Byte → Byte × Bool) (a : Word) (s : State) : (rotMem g a s).run = s.run := rfl
@[simp] theorem rotMem_irqPending (g : Byte → Byte × Bool) (a : Word) (s : State) : (rotMem g a s).irqPending = s.irqPending := rfl
@[simp] theorem rotMem_slots (g : Byte → Byte × Bool) (a : Word) (s : State) : (rotMem g a s).slots = s.slots := rfl
@[simp] theorem rotMem_fault (g : Byte → Byte × Bool) (a : Word) (s : State) : (rotMem g a s).fault = s.fault := rfl
@[simp] theorem rotMem_params (g : Byte → Byte × Bool) (a : Word) (s : State) : (rotMem g a s).params = s.params := rfl
@[simp] theorem rotMem_draws (g : Byte → Byte × Bool) (a : Word) (s : State) : (rotMem g a s).draws = s.draws + 2 := rfl
@[simp] theorem exchangeTop_a (v : Word) (s : State) : (exchangeTop v s).a = s.a := rfl
@[simp] theorem exchangeTop_f (v : Word) (s : State) : (exchangeTop v s).f = s.f := rfl
@[simp] theorem exchangeTop_bc (v : Word) (s : State) : (exchangeTop v s).bc = s.bc := rfl
@[simp] theorem exchangeTop_de (v : Word) (s : State) : (exchangeTop v s).de = s.de := rfl
@[simp] theorem exchangeTop_hl (v : Word) (s : State) : (exchangeTop v s).hl = s.hl := rfl
@[simp] theorem exchangeTop_aAlt (v : Word) (s : State) : (exchangeTop v s).aAlt = s.aAlt := rfl
@[simp] theorem exchangeTop_fAlt (v : Word) (s : State) : (exchangeTop v s).fAlt = s.fAlt := rfl
@[simp] theorem exchangeTop_bcAlt (v : Word) (s : State) : (exchangeTop v s).bcAlt = s.bcAlt := rfl
@[simp] theorem exchangeTop_deAlt (v : Word) (s : State) : (exchangeTop v s).deAlt = s.deAlt := rfl
@[simp] theorem exchangeTop_hlAlt (v : Word) (s : State) : (exchangeTop v s).hlAlt = s.hlAlt := rfl
@[simp] theorem exchangeTop_ix (v : Word) (s : State) : (exchangeTop v s).ix = s.ix := rfl
@[simp] theorem exchangeTop_iy (v : Word) (s : State) : (exchangeTop v s).iy = s.iy := rfl
@[simp] theorem exchangeTop_sp (v : Word) (s : State) : (exchangeTop v s).sp = s.sp := rfl
@[simp] theorem exchangeTop_pc (v : Word) (s : State) : (exchangeTop v s).pc = s.pc := rfl
@[simp] theorem exchangeTop_ir (v : Word) (s : State) : (exchangeTop v s).ir = s.ir := rfl
@[simp] theorem exchangeTop_iff (v : Word) (s : State) : (exchangeTop v s).iff = s.iff := rfl
@[simp] theorem exchangeTop_run (v : Word) (s : State) : (exchangeTop v s).run = s.run := rfl
@[simp] theorem exchangeTop_irqPending (v : Word) (s : State) : (exchangeTop v s).irqPending = s.irqPending := rfl
@[simp] theorem exchangeTop_slots (v : Word) (s : State) : (exchangeTop v s).slots = s.slots := rfl
@[simp] theorem exchangeTop_fault (v : Word) (s : State) : (exchangeTop v s).fault = s.fault := rfl
@[simp] theorem exchangeTop_params (v : Word) (s : State) : (exchangeTop v s).params = s.params := rfl
@[simp] theorem exchangeTop_draws (v : Word) (s : State) : (exchangeTop v s).draws = s.draws := rfl
@[simp] theorem blockMove_a (d : Word) (s : State) : (blockMove d s).a = s.a := rfl
@[simp] theorem blockMove_bc (d : Word) (s : State) : (blockMove d s).bc = s.bc - 1 := rfl
@[simp] theorem blockMove_de (d : Word) (s : State) : (blockMove d s).de = s.de + d := rfl
@[simp] theorem blockMove_hl (d : Word) (s : State) : (blockMove d s).hl = s.hl + d := rfl
@[simp] theorem blockMove_aAlt (d : Word) (s : State) : (blockMove d s).aAlt = s.aAlt := rfl
@[simp] theorem blockMove_fAlt (d : Word) (s : State) : (blockMove d s).fAlt = s.fAlt := rfl
@[simp] theorem blockMove_bcAlt (d : Word) (s : State) : (blockMove d s).bcAlt = s.bcAlt := rfl
@[simp] theorem blockMove_deAlt (d : Word) (s : State) : (blockMove d s).deAlt = s.deAlt := rfl
@[simp] theorem blockMove_hlAlt (d : Word) (s : State) : (blockMove d s).hlAlt = s.hlAlt := rfl
@[simp] theorem blockMove_ix (d : Word) (s : State) : (blockMove d s).ix = s.ix := rfl
@[simp] theorem blockMove_iy (d : Word) (s : State) : (blockMove d s).iy = s.iy := rfl
@[simp] theorem blockMove_sp (d : Word) (s : State) : (blockMove d s).sp = s.sp := rfl
@[simp] theorem blockMove_pc (d : Word) (s : State) : (blockMove d s).pc = s.pc := rfl
@[simp] theorem blockMove_ir (d : Word) (s : State) : (blockMove d s).ir = s.ir := rfl
@[simp] theorem blockMove_iff (d : Word) (s : State) : (blockMove d s).iff = s.iff := rfl
@[simp] theorem blockMove_run (d : Word) (s : State) : (blockMove d s).run = s.run := rfl
@[simp] theorem blockMove_irqPending (d : Word) (s : State) : (blockMove d s).irqPending = s.irqPending := rfl
@[simp] theorem blockMove_slots (d : Word) (s : State) : (blockMove d s).slots = s.slots := rfl
@[simp] theorem blockMove_fault (d : Word) (s : State) : (blockMove d s).fault = s.fault := rfl
@[simp] theorem blockMove_params (d : Word) (s : State) : (blockMove d s).params = s.params := rfl
@[simp] theorem blockMove_draws (d : Word) (s : State) : (blockMove d s).draws = s.draws + 2 := rfl
@[simp] theorem blockCompare_a (d : Word) (s : State) : (blockCompare d s).a = s.a := rfl
@[simp] theorem blockCompare_bc (d : Word) (s : State) : (blockCompare d s).bc = s.bc - 1 := rfl
@[simp] theorem blockCompare_de (d : Word) (s : State) : (blockCompare d s).de = s.de := rfl
@[simp] theorem blockCompare_hl (d : Word) (s : State) : (blockCompare d s).hl = s.hl + d := rfl
@[simp] theorem blockCompare_aAlt (d : Word) (s : State) : (blockCompare d s).aAlt = s.aAlt := rfl
@[simp] theorem blockCompare_fAlt (d : Word) (s : State) : (blockCompare d s).fAlt = s.fAlt := rfl
@[simp] theorem blockCompare_bcAlt (d : Word) (s : State) : (blockCompare d s).bcAlt = s.bcAlt := rfl
@[simp] theorem blockCompare_deAlt (d : Word) (s : State) : (blockCompare d s).deAlt = s.deAlt := rfl
@[simp] theorem blockCompare_hlAlt (d : Word) (s : State) : (blockCompare d s).hlAlt = s.hlAlt := rfl
@[simp] theorem blockCompare_ix (d : Word) (s : State) : (blockCompare d s).ix = s.ix := rfl
@[simp] theorem blockCompare_iy (d : Word) (s : State) : (blockCompare d s).iy = s.iy := rfl
@[simp] theorem blockCompare_sp (d : Word) (s : State) : (blockCompare d s).sp = s.sp := rfl
@[simp] theorem blockCompare_pc (d : Word) (s : State) : (blockCompare d s).pc = s.pc := rfl
@[simp] theorem blockCompare_ir (d : Word) (s : State) : (blockCompare d s).ir = s.ir := rfl
@[simp] theorem blockCompare_iff (d : Word) (s : State) : (blockCompare d s).iff = s.iff := rfl
@[simp] theorem blockCompare_run (d : Word) (s : State) : (blockCompare d s).run = s.run := rfl
@[simp] theorem blockCompare_irqPending (d : Word) (s : State) : (blockCompare d s).irqPending = s.irqPending := rfl
@[simp] theorem blockCompare_slots (d : Word) (s : State) : (blockCompare d s).slots = s.slots := rfl
@[simp] theorem blockCompare_mem (d : Word) (s : State) : (blockCompare d s).mem = s.mem := rfl
@[simp] theorem blockCompare_fault (d : Word) (s : State) : (blockCompare d s).fault = s.fault := rfl
@[simp] theorem blockCompare_params (d : Word) (s : State) : (blockCompare d s).params = s.params := rfl
@[simp] theorem blockCompare_draws (d : Word) (s : State) : (blockCompare d s).draws = s.draws + 2 := rfl
@[simp] theorem blockIn_a (d : Word) (s : State) : (blockIn d s).a = s.a := by simp [blockIn, blockIoFlags, setReg8]
@[simp] theorem blockIn_de (d : Word) (s : State) : (blockIn d s).de = s.de := by simp [blockIn, blockIoFlags, setReg8]
@[simp] theorem blockIn_hl (d : Word) (s : State) : (blockIn d s).hl = s.hl + d := by simp [blockIn, blockIoFlags, setReg8]
@[simp] theorem blockIn_aAlt (d : Word) (s : State) : (blockIn d s).aAlt = s.aAlt := by simp [blockIn, blockIoFlags, setReg8]
@[simp] theorem blockIn_fAlt (d : Word) (s : State) : (blockIn d s).fAlt = s.fAlt := by simp [blockIn, blockIoFlags, setReg8]
@[simp] theorem blockIn_bcAlt (d : Word) (s : State) : (blockIn d s).bcAlt = s.bcAlt := by simp [blockIn, blockIoFlags, setReg8]
@[simp] theorem blockIn_deAlt (d : Word) (s : State) : (blockIn d s).deAlt = s.deAlt := by simp [blockIn, blockIoFlags, setReg8]
@[simp] theorem blockIn_hlAlt (d : Word) (s : State) : (blockIn d s).hlAlt = s.hlAlt := by simp [blockIn, blockIoFlags, setReg8]
@[simp] theorem blockIn_ix (d : Word) (s : State) : (blockIn d s).ix = s.ix := by simp [blockIn, blockIoFlags, setReg8]
@[simp] theorem blockIn_iy (d : Word) (s : State) : (blockIn d s).iy = s.iy := by simp [blockIn, blockIoFlags, setReg8]
@[simp] theorem blockIn_sp (d : Word) (s : State) : (blockIn d s).sp = s.sp := by simp [blockIn, blockIoFlags, setReg8]
@[simp] theorem blockIn_pc (d : Word) (s : State) : (blockIn d s).pc = s.pc := by simp [blockIn, blockIoFlags, setReg8]
@[simp] theorem blockIn_ir (d : Word) (s : State) : (blockIn d s).ir = s.ir := by simp [blockIn, blockIoFlags, setReg8]
@[simp] theorem blockIn_iff (d : Word) (s : State) : (blockIn d s).iff = s.iff := by simp [blockIn, blockIoFlags, setReg8]
@[simp] theorem blockIn_run (d : Word) (s : State) : (blockIn d s).run = s.run := by simp [blockIn, blockIoFlags, setReg8]
@[simp] theorem blockIn_fault (d : Word) (s : State) : (blockIn d s).fault = s.fault := by simp [blockIn, blockIoFlags, setReg8]
@[simp] theorem blockIn_params (d : Word) (s : State) : (blockIn d s).params = s.params := by simp [blockIn, blockIoFlags, setReg8]
@[simp] theorem blockIn_draws (d : Word) (s : State) : (blockIn d s).draws = s.draws + 3 + 2 := by simp [blockIn, blockIoFlags, setReg8]
@[simp] theorem blockOut_a (d : Word) (s : State) : (blockOut d s).a = s.a := by simp [blockOut, blockIoFlags, setReg8]
@[simp] theorem blockOut_de (d : Word) (s : State) : (blockOut d s).de = s.de := by simp [blockOut, blockIoFlags, setReg8]
@[simp] theorem blockOut_hl (d : Word) (s : State) : (blockOut d s).hl = s.hl + d := by simp [blockOut, blockIoFlags, setReg8]
@[simp] theorem blockOut_aAlt (d : Word) (s : State) : (blockOut d s).aAlt = s.aAlt := by simp [blockOut, blockIoFlags, setReg8]
@[simp] theorem blockOut_fAlt (d : Word) (s : State) : (blockOut d s).fAlt = s.fAlt := by simp [blockOut, blockIoFlags, setReg8]
@[simp] theorem blockOut_bcAlt (d : Word) (s : State) : (blockOut d s).bcAlt = s.bcAlt := by simp [blockOut, blockIoFlags, setReg8]
@[simp] theorem blockOut_deAlt (d : Word) (s : State) : (blockOut d s).deAlt = s.deAlt := by simp [blockOut, blockIoFlags, setReg8]
@[simp] theorem blockOut_hlAlt (d : Word) (s : State) : (blockOut d s).hlAlt = s.hlAlt := by simp [blockOut, blockIoFlags, setReg8]
@[simp] theorem blockOut_ix (d : Word) (s : State) : (blockOut d s).ix = s.ix := by simp [blockOut, blockIoFlags, setReg8]
@[simp] theorem blockOut_iy (d : Word) (s : State) : (blockOut d s).iy = s.iy := by simp [blockOut, blockIoFlags, setReg8]
@[simp] theorem blockOut_sp (d : Word) (s : State) : (blockOut d s).sp = s.sp := by simp [blockOut, blockIoFlags, setReg8]
@[simp] theorem blockOut_pc (d : Word) (s : State) : (blockOut d s).pc = s.pc := by simp [blockOut, blockIoFlags, setReg8]
@[simp] theorem blockOut_ir (d : Word) (s : State) : (blockOut d s).ir = s.ir := by simp [blockOut, blockIoFlags, setReg8]
@[simp] theorem blockOut_iff (d : Word) (s : State) : (blockOut d s).iff = s.iff := by simp [blockOut, blockIoFlags, setReg8]
@[simp] theorem blockOut_run (d : Word) (s : State) : (blockOut d s).run = s.run := by simp [blockOut, blockIoFlags, setReg8]
@[simp] theorem blockOut_mem (d : Word) (s : State) : (blockOut d s).mem = s.mem := by simp [blockOut, blockIoFlags, setReg8]
@[simp] theorem blockOut_fault (d : Word) (s : State) : (blockOut d s).fault = s.fault := by simp [blockOut, blockIoFlags, setReg8]
@[simp] theorem blockOut_params (d : Word) (s : State) : (blockOut d s).params = s.params := by simp [blockOut, blockIoFlags, setReg8]
@[simp] theorem blockOut_draws (d : Word) (s : State) : (blockOut d s).draws = s.draws + 3 + 2 := by simp [blockOut, blockIoFlags, setReg8]
@[simp] theorem repeatIf_a (more : Bool) (s : State) : (repeatIf more s).a = s.a := by unfold repeatIf; split <;> rfl
@[simp] theorem repeatIf_f (more : Bool) (s : State) : (repeatIf more s).f = s.f := by unfold repeatIf; split <;> rfl
@[simp] theorem repeatIf_bc (more : Bool) (s : State) : (repeatIf more s).bc = s.bc := by unfold repeatIf; split <;> rfl
@[simp] theorem repeatIf_de (more : Bool) (s : State) : (repeatIf more s).de = s.de := by unfold repeatIf; split <;> rfl
@[simp] theorem repeatIf_hl (more : Bool) (s : State) : (repeatIf more s).hl = s.hl := by unfold repeatIf; split <;> rfl
@[simp] theorem repeatIf_aAlt (more : Bool) (s : State) : (repeatIf more s).aAlt = s.aAlt := by unfold repeatIf; split <;> rfl
@[simp] theorem repeatIf_fAlt (more : Bool) (s : State) : (repeatIf more s).fAlt = s.fAlt := by unfold repeatIf; split <;> rfl
@[simp] theorem repeatIf_bcAlt (more : Bool) (s : State) : (repeatIf more s).bcAlt = s.bcAlt := by unfold repeatIf; split <;> rfl
@[simp] theorem repeatIf_deAlt (more : Bool) (s : State) : (repeatIf more s).deAlt = s.deAlt := by unfold repeatIf; split <;> rfl
@[simp] theorem repeatIf_hlAlt (more : Bool) (s : State) : (repeatIf more s).hlAlt = s.hlAlt := by unfold repeatIf; split <;> rfl
@[simp] theorem repeatIf_ix (more : Bool) (s : State) : (repeatIf more s).ix = s.ix := by unfold repeatIf; split <;> rfl
@[simp] theorem repeatIf_iy (more : Bool) (s : State) : (repeatIf more s).iy = s.iy := by unfold repeatIf; split <;> rfl
@[simp] theorem repeatIf_sp (more : Bool) (s : State) : (repeatIf more s).sp = s.sp := by unfold repeatIf; split <;> rfl
@[simp] theorem repeatIf_pc (more : Bool) (s : State) : (repeatIf more s).pc = if more then s.pc - 2 else s.pc := by unfold repeatIf; split <;> rfl
@[simp] theorem repeatIf_ir (more : Bool) (s : State) : (repeatIf more s).ir = s.ir := by unfold repeatIf; split <;> rfl
@[simp] theorem repeatIf_iff (more : Bool) (s : State) : (repeatIf more s).iff = s.iff := by unfold repeatIf; split <;> rfl
@[simp] theorem repeatIf_run (more : Bool) (s : State) : (repeatIf more s).run = s.run := by unfold repeatIf; split <;> rfl
@[simp] theorem repeatIf_irqPending (more : Bool) (s : State) : (repeatIf more s).irqPending = s.irqPending := by unfold repeatIf; split <;> rfl
@[simp] theorem repeatIf_slots (more : Bool) (s : State) : (repeatIf more s).slots = s.slots := by unfold repeatIf; split <;> rfl
@[simp] theorem repeatIf_mem (more : Bool) (s : State) : (repeatIf more s).mem = s.mem := by unfold repeatIf; split <;> rfl
@[simp] theorem repeatIf_fault (more : Bool) (s : State) : (repeatIf more s).fault = s.fault := by unfold repeatIf; split <;> rfl
@[simp] theorem repeatIf_params (more : Bool) (s : State) : (repeatIf more s).params = s.params := by unfold repeatIf; split <;> rfl
@[simp] theorem repeatIf_draws (more : Bool) (s : State) : (repeatIf more s).draws = s.draws := by unfold repeatIf; split <;> rfl

end Sys2Proof.Machine
end

