-- ==== Sys2Proof/Laws/Flags.lean ====
section
/-! SUPPORT. The ALU functions (40_alu_flags.md R121 to R138) in exact arithmetic, one lemma per function. -/

namespace Sys2Proof.Machine

/-! ## Addition -/

theorem add8_eq (a b : Byte) (c : Bool) : add8 a b c = (sumResult a b c, sumFlags 4 a b c) := by
  have ha := a.isLt; have hb := b.isLt; have hc := Bool.toNat_le c
  simp only [add8, sumResult, sumFlags, Prod.mk.injEq, AluFlags.mk.injEq, true_and]
  refine ⟨?_, ?_, ?_, ?_⟩
  · simp [BitVec.msb_eq_decide]
  · rw [Bool.eq_iff_iff]; simp [BitVec.toNat_eq]
  · simp only [decide_eq_decide]; omega
  · rw [Bool.eq_iff_iff]
    simp only [overflows, BitVec.msb_eq_decide, BitVec.toInt_eq_toNat_cond, BitVec.toNat_ofNat, Bool.and_eq_true, beq_iff_eq,
      bne_iff_ne, ne_eq, decide_eq_decide, decide_eq_true_eq]
    split <;> split <;> omega

theorem add16_eq (a b : Word) (c : Bool) : add16 a b c = (sumResult a b c, sumFlags 12 a b c) := by
  have ha := a.isLt; have hb := b.isLt; have hc := Bool.toNat_le c
  simp only [add16, sumResult, sumFlags, Prod.mk.injEq, AluFlags.mk.injEq, true_and]
  refine ⟨?_, ?_, ?_, ?_⟩
  · simp [BitVec.msb_eq_decide]
  · rw [Bool.eq_iff_iff]; simp [BitVec.toNat_eq]
  · simp only [decide_eq_decide]; omega
  · rw [Bool.eq_iff_iff]
    simp only [overflows, BitVec.msb_eq_decide, BitVec.toInt_eq_toNat_cond, BitVec.toNat_ofNat, Bool.and_eq_true, beq_iff_eq,
      bne_iff_ne, ne_eq, decide_eq_decide, decide_eq_true_eq]
    split <;> split <;> omega

/-! ## Subtraction -/

theorem sub8_eq (p : HalfPolicy) (a b : Byte) (c : Bool) : sub8 p a b c = (differenceResult a b c, differenceFlags p 4 a b c) := by
  have ha := a.isLt; have hb := b.isLt
  have hn : (~~~b).toNat = 255 - b.toNat := by rw [BitVec.toNat_not]
  have hi : (~~~b).toInt = -b.toInt - 1 := by rw [BitVec.toInt_eq_toNat_cond, BitVec.toInt_eq_toNat_cond, hn]; split <;> split <;> omega
  have hc : (!c).toNat = 1 - c.toNat := by cases c <;> rfl
  have hc1 := Bool.toNat_le c
  simp only [sub8, add8_eq, differenceResult, differenceFlags, sumResult, sumFlags, overflows, hn, hi, hc, Prod.mk.injEq,
    AluFlags.mk.injEq, true_and]
  have hd : difference a b c = (a.toNat : Int) - b.toNat - c.toNat := rfl
  generalize difference a b c = d at hd
  refine ⟨?_, ?_, ?_, ?_, ?_, ?_⟩
  · apply BitVec.eq_of_toNat_eq
    rw [BitVec.toNat_ofNat, BitVec.toNat_ofInt]; omega
  · rw [decide_eq_decide]; omega
  · rw [decide_eq_decide]; omega
  · cases p <;> simp only [subHalf, ← decide_not] <;> rw [decide_eq_decide] <;> omega
  · rw [decide_eq_decide]; omega
  · rw [← decide_not, decide_eq_decide]; omega

theorem sub16_eq (p : HalfPolicy) (a b : Word) (c : Bool) : sub16 p a b c = (differenceResult a b c, differenceFlags p 12 a b c) := by
  have ha := a.isLt; have hb := b.isLt
  have hn : (~~~b).toNat = 65535 - b.toNat := by rw [BitVec.toNat_not]
  have hi : (~~~b).toInt = -b.toInt - 1 := by rw [BitVec.toInt_eq_toNat_cond, BitVec.toInt_eq_toNat_cond, hn]; split <;> split <;> omega
  have hc : (!c).toNat = 1 - c.toNat := by cases c <;> rfl
  have hc1 := Bool.toNat_le c
  simp only [sub16, add16_eq, differenceResult, differenceFlags, sumResult, sumFlags, overflows, hn, hi, hc, Prod.mk.injEq,
    AluFlags.mk.injEq, true_and]
  have hd : difference a b c = (a.toNat : Int) - b.toNat - c.toNat := rfl
  generalize difference a b c = d at hd
  refine ⟨?_, ?_, ?_, ?_, ?_, ?_⟩
  · apply BitVec.eq_of_toNat_eq
    rw [BitVec.toNat_ofNat, BitVec.toNat_ofInt]; omega
  · rw [decide_eq_decide]; omega
  · rw [decide_eq_decide]; omega
  · cases p <;> simp only [subHalf, ← decide_not] <;> rw [decide_eq_decide] <;> omega
  · rw [decide_eq_decide]; omega
  · rw [← decide_not, decide_eq_decide]; omega

/-! ## Increment and decrement, logic, rotates: one byte at most, so every case is tried -/

theorem parityEven_eq (v : Byte) : parityEven v = evenOnes v := by
  revert v; decide

theorem inc8_eq (v : Byte) (c : Bool) : inc8 v c = (BitVec.ofNat 8 (v.toNat + 1), { sumFlags 4 v 1 false with c := c }) := by
  have h : ∀ v : Byte, inc8 v false = (BitVec.ofNat 8 (v.toNat + 1), { sumFlags 4 v 1 false with c := false }) := by decide
  have h2 := h v
  simp only [inc8, Prod.mk.injEq, AluFlags.mk.injEq, and_true] at h2 ⊢
  exact h2

theorem dec8_eq (v : Byte) (c : Bool) : dec8 v c = (BitVec.ofInt 8 (v.toNat - 1), { differenceFlags .borrow 4 v 1 false with c := c }) := by
  have h : ∀ v : Byte, dec8 v false = (BitVec.ofInt 8 (v.toNat - 1), { differenceFlags .borrow 4 v 1 false with c := false }) := by decide
  have h2 := h v
  simp only [dec8, Prod.mk.injEq, AluFlags.mk.injEq, and_true] at h2 ⊢
  exact h2

theorem logic8_eq (r : Byte) (h : Bool) : logic8 r h = resultFlags r h false := by
  revert r h; decide

theorem rotFlags_eq (r : Byte × Bool) : rotFlags r = resultFlags r.1 false r.2 := by
  obtain ⟨v, c⟩ := r
  revert v c; decide

/-- The bit operation of a rotate or shift. -/
def ShiftOp.apply (op : ShiftOp) (v : Byte) (c : Bool) : Byte × Bool :=
  match op with
  | .rlc => Machine.rlc v
  | .rrc => Machine.rrc v
  | .rl => Machine.rl v c
  | .rr => Machine.rr v c
  | .sla => Machine.sla v
  | .sra => Machine.sra v
  | .sll => Machine.sll v
  | .srl => Machine.srl v

theorem ShiftOp.apply_eq (op : ShiftOp) (v : Byte) (c : Bool) : op.apply v c = (op.result v c, op.ejected v) := by
  cases op <;> revert v c <;> decide

end Sys2Proof.Machine
end

