-- ==== Sys2Proof/Laws/Memory.lean ====
section
/-! SUPPORT. Memory as canonical data: a read after a write, and that every memory operation keeps the canonical form. -/

namespace Sys2Proof.Machine

/-! ## Reads -/

theorem memRead_memErase_same (m : Memory) (a : Nat) : memRead (memErase m a) a = unlistedByte := by
  induction m with
  | nil => rfl
  | cons cell m ih =>
    obtain ⟨k, v⟩ := cell
    by_cases h : k = a
    · have hb : (k != a) = false := by simpa using h
      simp only [memErase, List.filter, hb] at ih ⊢
      exact ih
    · have hb : (k != a) = true := by simpa using h
      simp only [memErase, List.filter, hb] at ih ⊢
      simp [memRead, h, ih]

theorem memRead_memErase_other (m : Memory) {a b : Nat} (h : b ≠ a) : memRead (memErase m a) b = memRead m b := by
  induction m with
  | nil => rfl
  | cons cell m ih =>
    obtain ⟨k, v⟩ := cell
    by_cases hk : k = a
    · subst hk
      simp only [memErase, List.filter, bne_self_eq_false] at ih ⊢
      simp [memRead, Ne.symm h]; exact ih
    · have hb : (k != a) = true := by simpa using hk
      simp only [memErase, List.filter, hb] at ih ⊢
      simp [memRead, ih]

theorem memRead_memInsert_other (m : Memory) {a b : Nat} (v : Byte) (h : b ≠ a) : memRead (memInsert m a v) b = memRead m b := by
  induction m with
  | nil => simp [memInsert, memRead, Ne.symm h]
  | cons cell m ih =>
    obtain ⟨k, w⟩ := cell
    simp only [memInsert]
    split
    · simp [memRead, Ne.symm h]
    · simp [memRead, ih]

theorem memRead_memInsert_same (m : Memory) (a : Nat) (v : Byte) (h : ∀ cell ∈ m, cell.1 ≠ a) : memRead (memInsert m a v) a = v := by
  induction m with
  | nil => simp [memInsert, memRead]
  | cons cell m ih =>
    obtain ⟨k, w⟩ := cell
    simp only [memInsert]
    split
    · simp [memRead]
    · have hk : k ≠ a := h (k, w) (by simp)
      simp [memRead, hk]
      exact ih fun c hc => h c (by simp [hc])

theorem not_mem_memErase (m : Memory) (a : Nat) : ∀ cell ∈ memErase m a, cell.1 ≠ a := by
  intro cell hc
  simpa using (List.mem_filter.1 hc).2

/-- A read after a write to the same cell gives the value written (20_memory.md R51). -/
theorem memRead_memWrite_same (m : Memory) (a : Nat) (v : Byte) : memRead (memWrite m a v) a = v := by
  unfold memWrite
  split
  · next h => rw [memRead_memErase_same, h]
  · exact memRead_memInsert_same _ _ _ (not_mem_memErase m a)

/-- A write leaves every other cell alone (R51). -/
theorem memRead_memWrite_other (m : Memory) {a b : Nat} (v : Byte) (h : b ≠ a) : memRead (memWrite m a v) b = memRead m b := by
  unfold memWrite
  split
  · exact memRead_memErase_other m h
  · rw [memRead_memInsert_other _ _ h, memRead_memErase_other m h]

/-! ## The canonical form -/

theorem memWf_cons (k : Nat) (v : Byte) (m : Memory) :
    memWf ((k, v) :: m) = true ↔ k < 65536 ∧ v ≠ unlistedByte ∧ (∀ cell ∈ m, k < cell.1) ∧ memWf m = true := by
  simp [memWf, and_assoc]

theorem memWf_memErase (m : Memory) (a : Nat) (h : memWf m = true) : memWf (memErase m a) = true := by
  induction m with
  | nil => rfl
  | cons cell m ih =>
    obtain ⟨k, v⟩ := cell
    obtain ⟨h1, h2, h3, h4⟩ := (memWf_cons k v m).1 h
    unfold memErase
    rw [List.filter_cons]
    split
    · exact (memWf_cons _ _ _).2 ⟨h1, h2, fun c hc => h3 c (List.mem_of_mem_filter hc), ih h4⟩
    · exact ih h4

theorem mem_memInsert (m : Memory) (a : Nat) (v : Byte) : ∀ cell ∈ memInsert m a v, cell = (a, v) ∨ cell ∈ m := by
  induction m with
  | nil => simp [memInsert]
  | cons c m ih =>
    obtain ⟨k, w⟩ := c
    intro cell hc
    simp only [memInsert] at hc
    split at hc
    · simpa using hc
    · rcases List.mem_cons.1 hc with h | h
      · simp [h]
      · rcases ih cell h with h | h <;> simp [h]

theorem memWf_memInsert (m : Memory) (a : Nat) (v : Byte) (ha : a < 65536) (hv : v ≠ unlistedByte) (hm : memWf m = true)
    (hn : ∀ cell ∈ m, cell.1 ≠ a) : memWf (memInsert m a v) = true := by
  induction m with
  | nil => exact (memWf_cons _ _ _).2 ⟨ha, hv, by simp, rfl⟩
  | cons c m ih =>
    obtain ⟨k, w⟩ := c
    obtain ⟨h1, h2, h3, h4⟩ := (memWf_cons k w m).1 hm
    have hk : k ≠ a := hn (k, w) (by simp)
    simp only [memInsert]
    split
    · next hlt =>
      refine (memWf_cons _ _ _).2 ⟨ha, hv, ?_, hm⟩
      intro cell hc
      rcases List.mem_cons.1 hc with h | h
      · subst h; exact hlt
      · exact Nat.lt_trans hlt (h3 cell h)
    · next hge =>
      refine (memWf_cons _ _ _).2 ⟨h1, h2, ?_, ih h4 fun c hc => hn c (by simp [hc])⟩
      intro cell hc
      rcases mem_memInsert m a v cell hc with h | h
      · subst h; exact Nat.lt_of_le_of_ne (Nat.le_of_not_lt hge) hk
      · exact h3 cell h

/-- Every write keeps the canonical form. -/
theorem memWf_memWrite (m : Memory) (a : Nat) (v : Byte) (ha : a < 65536) (h : memWf m = true) : memWf (memWrite m a v) = true := by
  unfold memWrite
  split
  · exact memWf_memErase m a h
  · next hv => exact memWf_memInsert _ a v ha hv (memWf_memErase m a h) (not_mem_memErase m a)

/-- The Memory of `State.reset` has the canonical form. -/
theorem memWf_reset : memWf State.reset.mem = true := rfl

/-! ## On states -/

theorem read8_write8_same (s : State) (a : Word) (v : Byte) : read8 (write8 a v s) a = v := memRead_memWrite_same _ _ _

theorem read8_write8_other (s : State) {a b : Word} (v : Byte) (h : b ≠ a) : read8 (write8 a v s) b = read8 s b :=
  memRead_memWrite_other _ _ fun hn => h (BitVec.eq_of_toNat_eq hn)

theorem read8_write8 (s : State) (a b : Word) (v : Byte) : read8 (write8 a v s) b = if b = a then v else read8 s b := by
  split
  · next h => rw [h, read8_write8_same]
  · next h => exact read8_write8_other s v h

theorem memWf_write8 (s : State) (a : Word) (v : Byte) (h : memWf s.mem = true) : memWf (write8 a v s).mem = true :=
  memWf_memWrite _ _ _ a.isLt h

end Sys2Proof.Machine
end

