-- ==== Sys2Proof/Laws/Ops.lean ====
section
/-! SUPPORT. What each shared operation does, said once: words and their halves, stores, the stack, register writes, ports. -/

namespace Sys2Proof.Machine

/-! ## Words and their halves (00_scope.md R10, 10_state.md R21) -/

theorem lo8_eq (w : Word) : lo8 w = BitVec.ofNat 8 w.toNat := by
  apply BitVec.eq_of_toNat_eq; simp [lo8]

theorem hi8_eq (w : Word) : hi8 w = BitVec.ofNat 8 (w.toNat / 256) := by
  apply BitVec.eq_of_toNat_eq; simp [hi8, Nat.shiftRight_eq_div_pow]

theorem toNat_join (h l : Byte) : (join h l).toNat = 256 * h.toNat + l.toNat := by
  rw [join, BitVec.toNat_append, Nat.shiftLeft_eq, Nat.mul_comm, ← Nat.two_pow_add_eq_or_of_lt l.isLt]

theorem join_eq (h l : Byte) : join h l = BitVec.ofNat 16 (256 * h.toNat + l.toNat) := by
  apply BitVec.eq_of_toNat_eq
  have := h.isLt; have := l.isLt
  rw [toNat_join, BitVec.toNat_ofNat]; omega

@[simp] theorem hi8_join (h l : Byte) : hi8 (join h l) = h := by
  apply BitVec.eq_of_toNat_eq
  have := h.isLt; have := l.isLt
  rw [hi8_eq, toNat_join, BitVec.toNat_ofNat]; omega

@[simp] theorem lo8_join (h l : Byte) : lo8 (join h l) = l := by
  apply BitVec.eq_of_toNat_eq
  have := h.isLt; have := l.isLt
  rw [lo8_eq, toNat_join, BitVec.toNat_ofNat]; omega

@[simp] theorem join_hi8_lo8 (w : Word) : join (hi8 w) (lo8 w) = w := by
  apply BitVec.eq_of_toNat_eq
  have := w.isLt
  rw [toNat_join, hi8_eq, lo8_eq, BitVec.toNat_ofNat, BitVec.toNat_ofNat]; omega

/-- `EA(d)` and the target of a relative jump in exact arithmetic (46_ddfd_indexed.md R281, 30_encoding.md R101). -/
theorem add_sext16_eq (w : Word) (d : Byte) : w + sext16 d = moved w d := by
  apply BitVec.eq_of_toInt_eq
  have : d.toInt.bmod (2 ^ 16) = d.toInt := by
    rw [BitVec.toInt_eq_toNat_cond]; have := d.isLt; split <;> simp only [Int.bmod_def] <;> omega
  rw [BitVec.toInt_add, sext16, BitVec.toInt_signExtend_of_le (by omega), moved, BitVec.toInt_ofInt, BitVec.toInt_eq_toNat_bmod]
  simp

theorem effAddr_eq (s : State) (x : Index) (d : Byte) : effAddr s x d = moved (index s x) d := add_sext16_eq _ _

/-! ## Stores and reads (20_memory.md R51 to R53) -/

theorem ne_add_one (a : Word) : a ≠ a + 1 := by bv_omega

theorem byteStored_write8 (s : State) (a : Word) (v : Byte) : ByteStored s (write8 a v s) a v :=
  ⟨read8_write8_same s a v, fun _ h => read8_write8_other s v h⟩

theorem wordStored_write16 (s : State) (a v : Word) : WordStored s (write16 a v s) a v := by
  refine ⟨?_, ?_, fun b h0 h1 => ?_⟩
  · rw [write16, read8_write8_other _ _ (ne_add_one a), read8_write8_same, lo8_eq]
  · rw [write16, read8_write8_same, hi8_eq]
  · rw [write16, read8_write8_other _ _ h1, read8_write8_other _ _ h0]

theorem read16_eq (s : State) (a : Word) : read16 s a = wordAt s a := by
  rw [read16, join_eq, wordAt, Nat.add_comm]

theorem read16_of_wordStored {s t : State} {a v : Word} (h : WordStored s t a v) : read16 t a = v := by
  rw [read16, h.1, h.2.1, ← hi8_eq, ← lo8_eq, join_hi8_lo8]

theorem memWf_write16 (s : State) (a v : Word) (h : memWf s.mem = true) : memWf (write16 a v s).mem = true :=
  memWf_write8 _ _ _ (memWf_write8 _ _ _ h)

/-! ## The stack (20_memory.md R66) -/

theorem push16_sp (v : Word) (s : State) : (push16 v s).sp = s.sp - 2 := by
  show s.sp - 1 - 1 = s.sp - 2
  bv_omega

/-- A push as one store of a word below SP; the two bytes lie at different addresses, so their order does not matter to what is read. -/
theorem wordStored_push16 (v : Word) (s : State) : WordStored s (push16 v s) (s.sp - 2) v := by
  have h1 : s.sp - 2 = s.sp - 1 - 1 := by bv_omega
  have h2 : s.sp - 2 + 1 = s.sp - 1 := by bv_omega
  have h3 : s.sp - 1 ≠ s.sp - 1 - 1 := by bv_omega
  refine ⟨?_, ?_, fun b h0 hb => ?_⟩
  · rw [h1, ← lo8_eq]
    exact read8_write8_same _ _ _
  · rw [h2, ← hi8_eq]
    exact (read8_write8_other _ _ h3).trans (read8_write8_same _ _ _)
  · rw [h1] at h0; rw [h2] at hb
    exact (read8_write8_other _ _ h0).trans (read8_write8_other _ _ hb)

theorem push16_eq (v : Word) (s : State) : push16 v s = { s with sp := s.sp - 2, mem := (push16 v s).mem } := by
  rw [← push16_sp v s]; rfl

theorem memWf_push16 (v : Word) (s : State) (h : memWf s.mem = true) : memWf (push16 v s).mem = true :=
  memWf_write8 _ _ _ (memWf_write8 _ _ _ h)

theorem popped_eq (s : State) : popped s = wordAt s s.sp := read16_eq s s.sp

/-! ## Registers (10_state.md R20 to R24) -/

@[simp] theorem reg8_setReg8_same (r : Reg8) (v : Byte) (s : State) : reg8 (setReg8 r v s) r = v := by
  cases r <;> simp [reg8, setReg8]

theorem reg8_setReg8_other {q r : Reg8} (h : q ≠ r) (v : Byte) (s : State) : reg8 (setReg8 r v s) q = reg8 s q := by
  cases q <;> cases r <;> simp_all [reg8, setReg8]

theorem setReg8_eq (r : Reg8) (v : Byte) (s : State) :
    setReg8 r v s = { s with a := (setReg8 r v s).a, bc := (setReg8 r v s).bc, de := (setReg8 r v s).de, hl := (setReg8 r v s).hl } := by
  cases r <;> rfl

@[simp] theorem pair_setPair_same (p : Pair) (v : Word) (s : State) : pair (setPair p v s) p = v := by cases p <;> rfl

theorem pair_setPair_other {q p : Pair} (h : q ≠ p) (v : Word) (s : State) : pair (setPair p v s) q = pair s q := by
  cases q <;> cases p <;> first | rfl | exact absurd rfl h

theorem setPair_eq (p : Pair) (v : Word) (s : State) :
    setPair p v s = { s with bc := (setPair p v s).bc, de := (setPair p v s).de, hl := (setPair p v s).hl, sp := (setPair p v s).sp } := by
  cases p <;> rfl

@[simp] theorem index_setIndex_same (x : Index) (v : Word) (s : State) : index (setIndex x v s) x = v := by cases x <;> rfl

theorem index_setIndex_other {y x : Index} (h : y ≠ x) (v : Word) (s : State) : index (setIndex x v s) y = index s y := by
  cases y <;> cases x <;> first | rfl | exact absurd rfl h

theorem setIndex_eq (x : Index) (v : Word) (s : State) :
    setIndex x v s = { s with ix := (setIndex x v s).ix, iy := (setIndex x v s).iy } := by cases x <;> rfl

/-- F survives a trip through its byte (10_state.md R27). -/
@[simp] theorem Flags.ofByte_toByte (f : Flags) : Flags.ofByte f.toByte = f := by
  obtain ⟨a, b, c, d, e, g, h, i⟩ := f
  revert a b c d e g h i; decide

@[simp] theorem Flags.toByte_ofByte (v : Byte) : (Flags.ofByte v).toByte = v := by revert v; decide

@[simp] theorem stackPair_setStackPair_same (q : StackPair) (v : Word) (s : State) : stackPair (setStackPair q v s) q = v := by
  cases q <;> simp [stackPair, setStackPair, af, setAf]

theorem stackPair_setStackPair_other {r q : StackPair} (h : r ≠ q) (v : Word) (s : State) :
    stackPair (setStackPair q v s) r = stackPair s r := by
  cases r <;> cases q <;> first | rfl | exact absurd rfl h

theorem setStackPair_eq (q : StackPair) (v : Word) (s : State) :
    setStackPair q v s = { s with
      a := (setStackPair q v s).a, f := (setStackPair q v s).f, bc := (setStackPair q v s).bc, de := (setStackPair q v s).de
      hl := (setStackPair q v s).hl } := by cases q <;> rfl

/-! ## Ports (20_memory.md R57 to R60) -/

theorem slotOf_eq (port : Byte) : slotOf port = slotNumber port := by
  apply Fin.ext
  have := port.isLt
  simp [slotOf, slotNumber, Nat.shiftRight_eq_div_pow]; omega

theorem subOf_eq (port : Byte) : subOf port = subNumber port := by
  apply BitVec.eq_of_toNat_eq; simp [subOf, subNumber]

theorem get_set_same (v : Vector (Option Device) 16) (k : Fin 16) (d : Option Device) : (v.set k d k.isLt).get k = d := by
  simp [Vector.get_eq_getElem]

theorem get_set_other (v : Vector (Option Device) 16) {j k : Fin 16} (h : j ≠ k) (d : Option Device) :
    (v.set k d k.isLt).get j = v.get j := by
  simp only [Vector.get_eq_getElem]
  exact Vector.getElem_set_ne _ _ fun e => h (Fin.ext e.symm)

/-- `ioRead(port)` in one statement (R58, R60). -/
theorem portRead_afterPortIn (port : Byte) (s : State) : PortRead s (afterPortIn port s) port (portIn s port) := by
  unfold PortRead afterPortIn portIn deviceAt
  rw [← slotOf_eq, ← subOf_eq]
  cases h : s.slots.get (slotOf port) with
  | none => exact ⟨rfl, rfl, rfl⟩
  | some d =>
    refine ⟨(readAnswer (slotOf port) d (subOf port)).raisesIrq, fun ans rest hd => ?_, rfl, get_set_same _ _ _,
      fun k hk => get_set_other _ hk _⟩
    simp [readAnswer, hd]

/-- `ioWrite(port, v)` in one statement (R59, R60). -/
theorem portWrite_portOut (port v : Byte) (s : State) : PortWrite s (portOut port v s) port v := by
  unfold PortWrite portOut deviceAt
  rw [← slotOf_eq, ← subOf_eq]
  cases h : s.slots.get (slotOf port) with
  | none => exact ⟨rfl, rfl⟩
  | some d =>
    refine ⟨writeRaises (slotOf port) d (subOf port) v, fun ans rest hd => ?_, rfl, get_set_same _ _ _,
      fun k hk => get_set_other _ hk _⟩
    simp [writeRaises, hd]

theorem afterPortIn_eq (port : Byte) (s : State) :
    afterPortIn port s = { s with slots := (afterPortIn port s).slots, irqPending := (afterPortIn port s).irqPending } := by
  unfold afterPortIn; split <;> rfl

theorem portOut_eq (port v : Byte) (s : State) :
    portOut port v s = { s with slots := (portOut port v s).slots, irqPending := (portOut port v s).irqPending } := by
  unfold portOut; split <;> rfl

theorem repeatIf_eq (more : Bool) (s : State) : repeatIf more s = { s with pc := if more = true then s.pc - 2 else s.pc } := by
  unfold repeatIf; split <;> rfl

end Sys2Proof.Machine
end

