-- ==== Sys2Proof/Laws/Step.lean ====
section
/-! SUPPORT. Everything a step can do (30_encoding.md R80), said once, and how the groups of Safety.lean are met. -/

namespace Sys2Proof.Machine

/-! ## The step -/

theorem interruptDue_eq_false {s : State} (h : ¬(s.irqPending = true ∧ s.iff = true)) : interruptDue s = false := by
  unfold interruptDue
  revert h
  cases s.irqPending <;> cases s.iff <;> simp

/-- A step that completes: the interrupt entry, an idle step while HALTED, or one decoded instruction. -/
theorem step_cases {s t : State} (h : step s = .next t) :
    s.fault = none ∧
      ((s.irqPending = true ∧ s.iff = true ∧ t = takeInterrupt s) ∨
        (s.run = .halted ∧ interruptDue s = false ∧ t = s) ∨
        (s.run = .running ∧ interruptDue s = false ∧
          ∃ i, decode s.params.impl2 (windowAt s s.pc) = .row i ∧ exec i (advance i.length s) = .next t)) := by
  unfold step cycle at h
  split at h
  · cases h
  · next hf =>
    refine ⟨hf, ?_⟩
    unfold executeCycle at h
    split at h
    · next hd =>
      unfold interruptDue at hd
      rw [Bool.and_eq_true] at hd
      exact .inl ⟨hd.1, hd.2, (Host.Outcome.next.inj h).symm⟩
    · next hd =>
      rw [Bool.not_eq_true] at hd
      split at h
      · next hr => exact .inr (.inl ⟨hr, hd, (Host.Outcome.next.inj h).symm⟩)
      · next hr =>
        unfold fetchAndRun at h
        split at h
        · next i hi => exact .inr (.inr ⟨hr, hd, i, hi, h⟩)
        · cases h

/-! ## The groups -/

theorem loadsReg_intro {i : Instr} {s : State} {r : Reg8} {v : Byte} (h : exec i s = .next (setReg8 r v s)) : LoadsReg i s r v :=
  ⟨_, h, reg8_setReg8_same r v s, fun _ hq => reg8_setReg8_other hq v s, setReg8_eq r v s⟩

theorem storesByte_intro {i : Instr} {s : State} {a : Word} {v : Byte} (h : exec i s = .next (write8 a v s)) : StoresByte i s a v :=
  ⟨_, h, byteStored_write8 s a v, rfl⟩

theorem storesWord_intro {i : Instr} {s : State} {a v : Word} (h : exec i s = .next (write16 a v s)) : StoresWord i s a v :=
  ⟨_, h, wordStored_write16 s a v, rfl⟩

theorem loadsPair_intro {i : Instr} {s : State} {p : Pair} {v : Word} (h : exec i s = .next (setPair p v s)) : LoadsPair i s p v :=
  ⟨_, h, pair_setPair_same p v s, fun _ hq => pair_setPair_other hq v s, setPair_eq p v s⟩

theorem loadsIndex_intro {i : Instr} {s : State} {x : Index} {v : Word} (h : exec i s = .next (setIndex x v s)) : LoadsIndex i s x v :=
  ⟨_, h, index_setIndex_same x v s, fun _ hy => index_setIndex_other hy v s, setIndex_eq x v s⟩

theorem setsAcc_intro {i : Instr} {s : State} {r : Byte × AluFlags} (h : exec i s = .next (setAcc r s)) : SetsAcc i s r.1 r.2 :=
  ⟨_, h, rfl, rfl⟩

theorem setsReg_intro {i : Instr} {s : State} {r : Reg8} {v : Byte} {fl : AluFlags}
    (h : exec i s = .next (writeF fl (setReg8 r v s))) : SetsReg i s r v fl := by
  refine ⟨_, h, rfl, reg8_setReg8_same r v s, fun _ hq => reg8_setReg8_other hq v s, ?_⟩
  cases r <;> rfl

theorem setsByte_intro {i : Instr} {s : State} {a : Word} {v : Byte} {fl : AluFlags}
    (h : exec i s = .next (writeF fl (write8 a v s))) : SetsByte i s a v fl :=
  ⟨_, h, rfl, byteStored_write8 s a v, rfl⟩

end Sys2Proof.Machine
end

