-- ==== Sys2Proof/Laws/HostOps.lean ====
section
/-! SUPPORT. What each host operation does (70_reset_and_hazards.md, 60_exceptions.md R412), said once. -/

namespace Sys2Proof.Machine

/-! ## Fields after each operation -/

@[simp] theorem hostReset_a (s : State) : (hostReset s).a = 0 := rfl
@[simp] theorem hostReset_f (s : State) : (hostReset s).f = Flags.zero := rfl
@[simp] theorem hostReset_bc (s : State) : (hostReset s).bc = 0 := rfl
@[simp] theorem hostReset_de (s : State) : (hostReset s).de = 0 := rfl
@[simp] theorem hostReset_hl (s : State) : (hostReset s).hl = 0 := rfl
@[simp] theorem hostReset_aAlt (s : State) : (hostReset s).aAlt = 0 := rfl
@[simp] theorem hostReset_fAlt (s : State) : (hostReset s).fAlt = Flags.zero := rfl
@[simp] theorem hostReset_bcAlt (s : State) : (hostReset s).bcAlt = 0 := rfl
@[simp] theorem hostReset_deAlt (s : State) : (hostReset s).deAlt = 0 := rfl
@[simp] theorem hostReset_hlAlt (s : State) : (hostReset s).hlAlt = 0 := rfl
@[simp] theorem hostReset_ix (s : State) : (hostReset s).ix = 0 := rfl
@[simp] theorem hostReset_iy (s : State) : (hostReset s).iy = 0 := rfl
@[simp] theorem hostReset_sp (s : State) : (hostReset s).sp = 0 := rfl
@[simp] theorem hostReset_pc (s : State) : (hostReset s).pc = resetPc := rfl
@[simp] theorem hostReset_ir (s : State) : (hostReset s).ir = 0 := rfl
@[simp] theorem hostReset_iff (s : State) : (hostReset s).iff = false := rfl
@[simp] theorem hostReset_run (s : State) : (hostReset s).run = .running := rfl
@[simp] theorem hostReset_irqPending (s : State) : (hostReset s).irqPending = (s.irqPending && Config.undef1 s.draws) := rfl
@[simp] theorem hostReset_slots (s : State) : (hostReset s).slots = s.slots := rfl
@[simp] theorem hostReset_mem (s : State) : (hostReset s).mem = s.mem := rfl
@[simp] theorem hostReset_fault (s : State) : (hostReset s).fault = none := rfl
@[simp] theorem hostReset_params (s : State) : (hostReset s).params = s.params := rfl
@[simp] theorem hostReset_draws (s : State) : (hostReset s).draws = s.draws + 1 := rfl

@[simp] theorem hostClear_a (s : State) : (hostClear s).a = 0 := rfl
@[simp] theorem hostClear_f (s : State) : (hostClear s).f = Flags.zero := rfl
@[simp] theorem hostClear_bc (s : State) : (hostClear s).bc = 0 := rfl
@[simp] theorem hostClear_de (s : State) : (hostClear s).de = 0 := rfl
@[simp] theorem hostClear_hl (s : State) : (hostClear s).hl = 0 := rfl
@[simp] theorem hostClear_aAlt (s : State) : (hostClear s).aAlt = 0 := rfl
@[simp] theorem hostClear_fAlt (s : State) : (hostClear s).fAlt = Flags.zero := rfl
@[simp] theorem hostClear_bcAlt (s : State) : (hostClear s).bcAlt = 0 := rfl
@[simp] theorem hostClear_deAlt (s : State) : (hostClear s).deAlt = 0 := rfl
@[simp] theorem hostClear_hlAlt (s : State) : (hostClear s).hlAlt = 0 := rfl
@[simp] theorem hostClear_ix (s : State) : (hostClear s).ix = 0 := rfl
@[simp] theorem hostClear_iy (s : State) : (hostClear s).iy = 0 := rfl
@[simp] theorem hostClear_sp (s : State) : (hostClear s).sp = 0 := rfl
@[simp] theorem hostClear_pc (s : State) : (hostClear s).pc = resetPc := rfl
@[simp] theorem hostClear_ir (s : State) : (hostClear s).ir = 0 := rfl
@[simp] theorem hostClear_iff (s : State) : (hostClear s).iff = false := rfl
@[simp] theorem hostClear_run (s : State) : (hostClear s).run = .running := rfl
@[simp] theorem hostClear_irqPending (s : State) : (hostClear s).irqPending = (s.irqPending && Config.undef1 s.draws) := rfl
@[simp] theorem hostClear_slots (s : State) : (hostClear s).slots = s.slots := rfl
@[simp] theorem hostClear_mem (s : State) : (hostClear s).mem = [] := rfl
@[simp] theorem hostClear_fault (s : State) : (hostClear s).fault = none := rfl
@[simp] theorem hostClear_params (s : State) : (hostClear s).params = s.params := rfl
@[simp] theorem hostClear_draws (s : State) : (hostClear s).draws = s.draws + 1 := rfl

@[simp] theorem raiseRequest_a (s : State) : (raiseRequest s).a = s.a := rfl
@[simp] theorem raiseRequest_f (s : State) : (raiseRequest s).f = s.f := rfl
@[simp] theorem raiseRequest_bc (s : State) : (raiseRequest s).bc = s.bc := rfl
@[simp] theorem raiseRequest_de (s : State) : (raiseRequest s).de = s.de := rfl
@[simp] theorem raiseRequest_hl (s : State) : (raiseRequest s).hl = s.hl := rfl
@[simp] theorem raiseRequest_aAlt (s : State) : (raiseRequest s).aAlt = s.aAlt := rfl
@[simp] theorem raiseRequest_fAlt (s : State) : (raiseRequest s).fAlt = s.fAlt := rfl
@[simp] theorem raiseRequest_bcAlt (s : State) : (raiseRequest s).bcAlt = s.bcAlt := rfl
@[simp] theorem raiseRequest_deAlt (s : State) : (raiseRequest s).deAlt = s.deAlt := rfl
@[simp] theorem raiseRequest_hlAlt (s : State) : (raiseRequest s).hlAlt = s.hlAlt := rfl
@[simp] theorem raiseRequest_ix (s : State) : (raiseRequest s).ix = s.ix := rfl
@[simp] theorem raiseRequest_iy (s : State) : (raiseRequest s).iy = s.iy := rfl
@[simp] theorem raiseRequest_sp (s : State) : (raiseRequest s).sp = s.sp := rfl
@[simp] theorem raiseRequest_pc (s : State) : (raiseRequest s).pc = s.pc := rfl
@[simp] theorem raiseRequest_ir (s : State) : (raiseRequest s).ir = s.ir := rfl
@[simp] theorem raiseRequest_iff (s : State) : (raiseRequest s).iff = s.iff := rfl
@[simp] theorem raiseRequest_run (s : State) : (raiseRequest s).run = s.run := rfl
@[simp] theorem raiseRequest_irqPending (s : State) : (raiseRequest s).irqPending = true := rfl
@[simp] theorem raiseRequest_slots (s : State) : (raiseRequest s).slots = s.slots := rfl
@[simp] theorem raiseRequest_mem (s : State) : (raiseRequest s).mem = s.mem := rfl
@[simp] theorem raiseRequest_fault (s : State) : (raiseRequest s).fault = s.fault := rfl
@[simp] theorem raiseRequest_params (s : State) : (raiseRequest s).params = s.params := rfl
@[simp] theorem raiseRequest_draws (s : State) : (raiseRequest s).draws = s.draws := rfl

@[simp] theorem debugWrite_a (a : Word) (v : Byte) (s : State) : (debugWrite a v s).a = s.a := rfl
@[simp] theorem debugWrite_f (a : Word) (v : Byte) (s : State) : (debugWrite a v s).f = s.f := rfl
@[simp] theorem debugWrite_bc (a : Word) (v : Byte) (s : State) : (debugWrite a v s).bc = s.bc := rfl
@[simp] theorem debugWrite_de (a : Word) (v : Byte) (s : State) : (debugWrite a v s).de = s.de := rfl
@[simp] theorem debugWrite_hl (a : Word) (v : Byte) (s : State) : (debugWrite a v s).hl = s.hl := rfl
@[simp] theorem debugWrite_aAlt (a : Word) (v : Byte) (s : State) : (debugWrite a v s).aAlt = s.aAlt := rfl
@[simp] theorem debugWrite_fAlt (a : Word) (v : Byte) (s : State) : (debugWrite a v s).fAlt = s.fAlt := rfl
@[simp] theorem debugWrite_bcAlt (a : Word) (v : Byte) (s : State) : (debugWrite a v s).bcAlt = s.bcAlt := rfl
@[simp] theorem debugWrite_deAlt (a : Word) (v : Byte) (s : State) : (debugWrite a v s).deAlt = s.deAlt := rfl
@[simp] theorem debugWrite_hlAlt (a : Word) (v : Byte) (s : State) : (debugWrite a v s).hlAlt = s.hlAlt := rfl
@[simp] theorem debugWrite_ix (a : Word) (v : Byte) (s : State) : (debugWrite a v s).ix = s.ix := rfl
@[simp] theorem debugWrite_iy (a : Word) (v : Byte) (s : State) : (debugWrite a v s).iy = s.iy := rfl
@[simp] theorem debugWrite_sp (a : Word) (v : Byte) (s : State) : (debugWrite a v s).sp = s.sp := rfl
@[simp] theorem debugWrite_pc (a : Word) (v : Byte) (s : State) : (debugWrite a v s).pc = s.pc := rfl
@[simp] theorem debugWrite_ir (a : Word) (v : Byte) (s : State) : (debugWrite a v s).ir = s.ir := rfl
@[simp] theorem debugWrite_iff (a : Word) (v : Byte) (s : State) : (debugWrite a v s).iff = s.iff := rfl
@[simp] theorem debugWrite_run (a : Word) (v : Byte) (s : State) : (debugWrite a v s).run = s.run := rfl
@[simp] theorem debugWrite_irqPending (a : Word) (v : Byte) (s : State) : (debugWrite a v s).irqPending = s.irqPending := rfl
@[simp] theorem debugWrite_slots (a : Word) (v : Byte) (s : State) : (debugWrite a v s).slots = s.slots := rfl
@[simp] theorem debugWrite_mem (a : Word) (v : Byte) (s : State) : (debugWrite a v s).mem = memWrite s.mem a.toNat v := rfl
@[simp] theorem debugWrite_fault (a : Word) (v : Byte) (s : State) : (debugWrite a v s).fault = s.fault := rfl
@[simp] theorem debugWrite_params (a : Word) (v : Byte) (s : State) : (debugWrite a v s).params = s.params := rfl
@[simp] theorem debugWrite_draws (a : Word) (v : Byte) (s : State) : (debugWrite a v s).draws = s.draws := rfl

@[simp] theorem afterFault_a (r : FaultRecord) (s : State) : (afterFault r s).a = s.a := rfl
@[simp] theorem afterFault_f (r : FaultRecord) (s : State) : (afterFault r s).f = s.f := rfl
@[simp] theorem afterFault_bc (r : FaultRecord) (s : State) : (afterFault r s).bc = s.bc := rfl
@[simp] theorem afterFault_de (r : FaultRecord) (s : State) : (afterFault r s).de = s.de := rfl
@[simp] theorem afterFault_hl (r : FaultRecord) (s : State) : (afterFault r s).hl = s.hl := rfl
@[simp] theorem afterFault_aAlt (r : FaultRecord) (s : State) : (afterFault r s).aAlt = s.aAlt := rfl
@[simp] theorem afterFault_fAlt (r : FaultRecord) (s : State) : (afterFault r s).fAlt = s.fAlt := rfl
@[simp] theorem afterFault_bcAlt (r : FaultRecord) (s : State) : (afterFault r s).bcAlt = s.bcAlt := rfl
@[simp] theorem afterFault_deAlt (r : FaultRecord) (s : State) : (afterFault r s).deAlt = s.deAlt := rfl
@[simp] theorem afterFault_hlAlt (r : FaultRecord) (s : State) : (afterFault r s).hlAlt = s.hlAlt := rfl
@[simp] theorem afterFault_ix (r : FaultRecord) (s : State) : (afterFault r s).ix = s.ix := rfl
@[simp] theorem afterFault_iy (r : FaultRecord) (s : State) : (afterFault r s).iy = s.iy := rfl
@[simp] theorem afterFault_sp (r : FaultRecord) (s : State) : (afterFault r s).sp = s.sp := rfl
@[simp] theorem afterFault_pc (r : FaultRecord) (s : State) : (afterFault r s).pc = Config.pcAfterFault s.draws := rfl
@[simp] theorem afterFault_ir (r : FaultRecord) (s : State) : (afterFault r s).ir = s.ir := rfl
@[simp] theorem afterFault_iff (r : FaultRecord) (s : State) : (afterFault r s).iff = s.iff := rfl
@[simp] theorem afterFault_run (r : FaultRecord) (s : State) : (afterFault r s).run = s.run := rfl
@[simp] theorem afterFault_irqPending (r : FaultRecord) (s : State) : (afterFault r s).irqPending = s.irqPending := rfl
@[simp] theorem afterFault_slots (r : FaultRecord) (s : State) : (afterFault r s).slots = s.slots := rfl
@[simp] theorem afterFault_mem (r : FaultRecord) (s : State) : (afterFault r s).mem = s.mem := rfl
@[simp] theorem afterFault_fault (r : FaultRecord) (s : State) : (afterFault r s).fault = some r := rfl
@[simp] theorem afterFault_params (r : FaultRecord) (s : State) : (afterFault r s).params = s.params := rfl
@[simp] theorem afterFault_draws (r : FaultRecord) (s : State) : (afterFault r s).draws = s.draws + 1 := rfl

/-- A load changes Memory only. -/
theorem loadProgram_frame (origin : Word) (bytes : List Byte) (s : State) :
    loadProgram origin bytes s = { s with mem := (loadProgram origin bytes s).mem } := by
  induction bytes generalizing origin s with
  | nil => rfl
  | cons v rest ih => rw [loadProgram, ih]; rfl

/-- A load keeps Memory canonical. -/
theorem memWf_loadProgram (origin : Word) (bytes : List Byte) (s : State) (h : memWf s.mem = true) :
    memWf (loadProgram origin bytes s).mem = true := by
  induction bytes generalizing origin s with
  | nil => exact h
  | cons v rest ih => exact ih _ _ (memWf_write8 _ _ _ h)

/-- A registration that is not refused: an empty slot below 16 has been bound, and nothing else has changed. -/
theorem registerPeripheral_cases {slot : Nat} {d : Device} {s t : State} (h : registerPeripheral slot d s = some t) :
    ∃ hs : slot < 16, s.slots[slot] = none ∧ t = { s with slots := s.slots.set slot (some d) } := by
  unfold registerPeripheral at h
  split at h
  · next hs =>
    split at h
    · next he => exact ⟨hs, he, (Option.some.inj h).symm⟩
    · cases h
  · cases h

/-! ## `execute()` with its record -/

/-- A step that faults, on an engine that is not faulted already: the bytes at PC select no row. -/
theorem step_unknown_cases {s : State} {bytes : List Byte} {pc : Word} (h : step s = .fault (.unknownInstruction bytes pc)) :
    s.fault = none ∧ pc = s.pc ∧ decode s.params.impl2 (windowAt s s.pc) = .unknown bytes := by
  unfold step cycle at h
  split at h
  · cases h
  · next hf =>
    unfold executeCycle at h
    split at h
    · cases h
    · split at h
      · cases h
      · unfold fetchAndRun at h
        split at h
        · next i _ => cases i <;> cases h
        · next b hb => cases h; exact ⟨hf, rfl, hb⟩

/-- A call of `execute()` that fails leaves `afterFault` of the state it began in. -/
theorem executeCall_failed_cases {s t : State} {r : FaultRecord} (h : executeCall s = .failed r t) :
    s.fault = none ∧ r.pc = s.pc ∧ decode s.params.impl2 (windowAt s s.pc) = .unknown r.bytes ∧ t = afterFault r s := by
  unfold executeCall at h
  split at h
  · cases h
  · next b pc hc =>
    obtain ⟨hf, hp, hd⟩ := step_unknown_cases (s := s) hc
    cases h
    exact ⟨hf, hp, hd, rfl⟩
  · cases h
  · cases h

end Sys2Proof.Machine
end

