-- ==== Sys2Proof/Laws/PerInstr.lean ====
section
/-! SUPPORT. Statements made for every instruction, one lemma per constructor. -/

namespace Sys2Proof.Laws.EncodeLength

/-- The encoding of `i` has exactly the length the dispatcher moves PC by (30_encoding.md R102). -/
def Statement (i : Instr) : Prop := (encode i).length = i.length

theorem ldRR (dst src : Reg8) : Statement (.ldRR dst src) := rfl
theorem ldRHL (r : Reg8) : Statement (.ldRHL r) := rfl
theorem ldHLR (r : Reg8) : Statement (.ldHLR r) := rfl
theorem ldRN (r : Reg8) (n : Byte) : Statement (.ldRN r n) := rfl
theorem ldHLN (n : Byte) : Statement (.ldHLN n) := rfl
theorem ldDdNN (p : Pair) (nn : Word) : Statement (.ldDdNN p nn) := rfl
theorem ldSPHL : Statement .ldSPHL := rfl
theorem push (q : StackPair) : Statement (.push q) := rfl
theorem pop (q : StackPair) : Statement (.pop q) := rfl
theorem exDEHL : Statement .exDEHL := rfl
theorem exAFAF : Statement .exAFAF := rfl
theorem exx : Statement .exx := rfl
theorem exSPHL : Statement .exSPHL := rfl
theorem addAR (r : Reg8) : Statement (.addAR r) := rfl
theorem addAHL : Statement .addAHL := rfl
theorem addAN (n : Byte) : Statement (.addAN n) := rfl
theorem adcAR (r : Reg8) : Statement (.adcAR r) := rfl
theorem adcAHL : Statement .adcAHL := rfl
theorem adcAN (n : Byte) : Statement (.adcAN n) := rfl
theorem subAR (r : Reg8) : Statement (.subAR r) := rfl
theorem subAHL : Statement .subAHL := rfl
theorem subAN (n : Byte) : Statement (.subAN n) := rfl
theorem sbcAR (r : Reg8) : Statement (.sbcAR r) := rfl
theorem sbcAHL : Statement .sbcAHL := rfl
theorem sbcAN (n : Byte) : Statement (.sbcAN n) := rfl
theorem andAR (r : Reg8) : Statement (.andAR r) := rfl
theorem andAHL : Statement .andAHL := rfl
theorem andAN (n : Byte) : Statement (.andAN n) := rfl
theorem xorAR (r : Reg8) : Statement (.xorAR r) := rfl
theorem xorAHL : Statement .xorAHL := rfl
theorem xorAN (n : Byte) : Statement (.xorAN n) := rfl
theorem orAR (r : Reg8) : Statement (.orAR r) := rfl
theorem orAHL : Statement .orAHL := rfl
theorem orAN (n : Byte) : Statement (.orAN n) := rfl
theorem cpAR (r : Reg8) : Statement (.cpAR r) := rfl
theorem cpAHL : Statement .cpAHL := rfl
theorem cpAN (n : Byte) : Statement (.cpAN n) := rfl
theorem incR (r : Reg8) : Statement (.incR r) := rfl
theorem incHL : Statement .incHL := rfl
theorem decR (r : Reg8) : Statement (.decR r) := rfl
theorem decHL : Statement .decHL := rfl
theorem incSS (p : Pair) : Statement (.incSS p) := rfl
theorem decSS (p : Pair) : Statement (.decSS p) := rfl
theorem addHLSS (p : Pair) : Statement (.addHLSS p) := rfl
theorem jpNN (nn : Word) : Statement (.jpNN nn) := rfl
theorem jpCcNN (cc : Cond) (nn : Word) : Statement (.jpCcNN cc nn) := rfl
theorem jrE (e : Byte) : Statement (.jrE e) := rfl
theorem jrCcE (cc : RelCond) (e : Byte) : Statement (.jrCcE cc e) := rfl
theorem callNN (nn : Word) : Statement (.callNN nn) := rfl
theorem callCcNN (cc : Cond) (nn : Word) : Statement (.callCcNN cc nn) := rfl
theorem ret : Statement .ret := rfl
theorem retCc (cc : Cond) : Statement (.retCc cc) := rfl
theorem rst (t : BitVec 3) : Statement (.rst t) := rfl
theorem inAN (n : Byte) : Statement (.inAN n) := rfl
theorem outNA (n : Byte) : Statement (.outNA n) := rfl
theorem ei : Statement .ei := rfl
theorem di : Statement .di := rfl
theorem halt : Statement .halt := rfl
theorem rlcR (r : Reg8) : Statement (.rlcR r) := rfl
theorem rlcHL : Statement .rlcHL := rfl
theorem rrcR (r : Reg8) : Statement (.rrcR r) := rfl
theorem rrcHL : Statement .rrcHL := rfl
theorem rlR (r : Reg8) : Statement (.rlR r) := rfl
theorem rlHL : Statement .rlHL := rfl
theorem rrR (r : Reg8) : Statement (.rrR r) := rfl
theorem rrHL : Statement .rrHL := rfl
theorem slaR (r : Reg8) : Statement (.slaR r) := rfl
theorem slaHL : Statement .slaHL := rfl
theorem sraR (r : Reg8) : Statement (.sraR r) := rfl
theorem sraHL : Statement .sraHL := rfl
theorem sllR (r : Reg8) : Statement (.sllR r) := rfl
theorem sllHL : Statement .sllHL := rfl
theorem srlR (r : Reg8) : Statement (.srlR r) := rfl
theorem srlHL : Statement .srlHL := rfl
theorem bitR (b : BitVec 3) (r : Reg8) : Statement (.bitR b r) := rfl
theorem bitHL (b : BitVec 3) : Statement (.bitHL b) := rfl
theorem resR (b : BitVec 3) (r : Reg8) : Statement (.resR b r) := rfl
theorem resHL (b : BitVec 3) : Statement (.resHL b) := rfl
theorem setR (b : BitVec 3) (r : Reg8) : Statement (.setR b r) := rfl
theorem setHL (b : BitVec 3) : Statement (.setHL b) := rfl
theorem adcHLSS (p : Pair) : Statement (.adcHLSS p) := rfl
theorem sbcHLSS (p : Pair) : Statement (.sbcHLSS p) := rfl
theorem ldMemDd (nn : Word) (p : Pair) : Statement (.ldMemDd nn p) := rfl
theorem ldDdMem (p : Pair) (nn : Word) : Statement (.ldDdMem p nn) := rfl
theorem inRC (r : Reg8) : Statement (.inRC r) := rfl
theorem outCR (r : Reg8) : Statement (.outCR r) := rfl
theorem addXY (x : Index) (p : IndexPair) : Statement (.addXY x p) := rfl
theorem incXY (x : Index) : Statement (.incXY x) := rfl
theorem decXY (x : Index) : Statement (.decXY x) := rfl
theorem ldXYNN (x : Index) (nn : Word) : Statement (.ldXYNN x nn) := rfl
theorem ldRXYd (x : Index) (r : Reg8) (d : Byte) : Statement (.ldRXYd x r d) := rfl
theorem ldXYdR (x : Index) (d : Byte) (r : Reg8) : Statement (.ldXYdR x d r) := rfl
theorem addAXYd (x : Index) (d : Byte) : Statement (.addAXYd x d) := rfl
theorem subAXYd (x : Index) (d : Byte) : Statement (.subAXYd x d) := rfl
theorem andAXYd (x : Index) (d : Byte) : Statement (.andAXYd x d) := rfl
theorem xorAXYd (x : Index) (d : Byte) : Statement (.xorAXYd x d) := rfl
theorem orAXYd (x : Index) (d : Byte) : Statement (.orAXYd x d) := rfl
theorem cpAXYd (x : Index) (d : Byte) : Statement (.cpAXYd x d) := rfl
theorem rlcXYd (x : Index) (d : Byte) : Statement (.rlcXYd x d) := rfl
theorem rrcXYd (x : Index) (d : Byte) : Statement (.rrcXYd x d) := rfl
theorem rlXYd (x : Index) (d : Byte) : Statement (.rlXYd x d) := rfl
theorem rrXYd (x : Index) (d : Byte) : Statement (.rrXYd x d) := rfl
theorem slaXYd (x : Index) (d : Byte) : Statement (.slaXYd x d) := rfl
theorem sraXYd (x : Index) (d : Byte) : Statement (.sraXYd x d) := rfl
theorem sllXYd (x : Index) (d : Byte) : Statement (.sllXYd x d) := rfl
theorem srlXYd (x : Index) (d : Byte) : Statement (.srlXYd x d) := rfl
theorem bitXYd (x : Index) (b : BitVec 3) (d : Byte) : Statement (.bitXYd x b d) := rfl
theorem resXYd (x : Index) (b : BitVec 3) (d : Byte) : Statement (.resXYd x b d) := rfl
theorem setXYd (x : Index) (b : BitVec 3) (d : Byte) : Statement (.setXYd x b d) := rfl
theorem nop : Statement .nop := rfl
theorem ldBCA : Statement .ldBCA := rfl
theorem ldABC : Statement .ldABC := rfl
theorem ldDEA : Statement .ldDEA := rfl
theorem ldADE : Statement .ldADE := rfl
theorem ldMemHL (nn : Word) : Statement (.ldMemHL nn) := rfl
theorem ldHLMem (nn : Word) : Statement (.ldHLMem nn) := rfl
theorem ldMemA (nn : Word) : Statement (.ldMemA nn) := rfl
theorem ldAMem (nn : Word) : Statement (.ldAMem nn) := rfl
theorem rlca : Statement .rlca := rfl
theorem rrca : Statement .rrca := rfl
theorem rla : Statement .rla := rfl
theorem rra : Statement .rra := rfl
theorem djnz (e : Byte) : Statement (.djnz e) := rfl
theorem daa : Statement .daa := rfl
theorem cpl : Statement .cpl := rfl
theorem scf : Statement .scf := rfl
theorem ccf : Statement .ccf := rfl
theorem jpHL : Statement .jpHL := rfl
theorem neg : Statement .neg := rfl
theorem rrd : Statement .rrd := rfl
theorem rld : Statement .rld := rfl
theorem ldi : Statement .ldi := rfl
theorem ldd : Statement .ldd := rfl
theorem ldir : Statement .ldir := rfl
theorem lddr : Statement .lddr := rfl
theorem cpi : Statement .cpi := rfl
theorem cpd : Statement .cpd := rfl
theorem cpir : Statement .cpir := rfl
theorem cpdr : Statement .cpdr := rfl
theorem ini : Statement .ini := rfl
theorem ind : Statement .ind := rfl
theorem inir : Statement .inir := rfl
theorem indr : Statement .indr := rfl
theorem outi : Statement .outi := rfl
theorem outd : Statement .outd := rfl
theorem otir : Statement .otir := rfl
theorem otdr : Statement .otdr := rfl
theorem ldMemXY (nn : Word) (x : Index) : Statement (.ldMemXY nn x) := rfl
theorem ldXYMem (x : Index) (nn : Word) : Statement (.ldXYMem x nn) := rfl
theorem incXYd (x : Index) (d : Byte) : Statement (.incXYd x d) := rfl
theorem decXYd (x : Index) (d : Byte) : Statement (.decXYd x d) := rfl
theorem ldXYdN (x : Index) (d n : Byte) : Statement (.ldXYdN x d n) := rfl
theorem adcAXYd (x : Index) (d : Byte) : Statement (.adcAXYd x d) := rfl
theorem sbcAXYd (x : Index) (d : Byte) : Statement (.sbcAXYd x d) := rfl
theorem popXY (x : Index) : Statement (.popXY x) := rfl
theorem exSPXY (x : Index) : Statement (.exSPXY x) := rfl
theorem pushXY (x : Index) : Statement (.pushXY x) := rfl
theorem jpXY (x : Index) : Statement (.jpXY x) := rfl
theorem ldSPXY (x : Index) : Statement (.ldSPXY x) := rfl

end Sys2Proof.Laws.EncodeLength
end

