-- ==== Sys2Proof/Tests/Slice0.lean ====
section
/-! SUPPORT. Tests: every check of WellFormed refused once, a word written from the spec's encoding for every constructor, single steps with
the values of spec/95_test_vectors.md, and for every statement with hypotheses a state and operands that meet them. -/

namespace Sys2Proof.Tests

open Sys2Proof Sys2Proof.Machine

/-! ## Helpers -/

/-- An engine with the given parameters and bytes at `pc`, about to fetch there. -/
def engineAt (p : Params) (pc : Word) (bytes : List Byte) : State := { loadProgram pc bytes (construct p) with pc := pc }

/-- An engine with every tier-2 row and bytes at 0. -/
def engine (bytes : List Byte) : State := engineAt resetParams 0 bytes

/-- The same with `SUB_HALF_POLICY` = `borrow`. -/
def engineBorrow (bytes : List Byte) : State := engineAt { resetParams with subHalf := .borrow } 0 bytes

/-- One step gives a next state that passes the check. -/
def after (s : State) (check : State → Bool) : Bool :=
  match step s with
  | .next t => check t
  | _ => false

/-- The bytes decode to `i`, and `i` encodes to the bytes. -/
def reads (bytes : List Byte) (i : Instr) : Bool := decode Tier2Row.all (windowOf bytes) == .row i && encode i == bytes

/-- A device that answers the bytes given, one a call, and raises no request. -/
def device (answers : List Byte) : Device := ⟨answers.map fun v => ⟨v, false⟩, []⟩

/-! ## WellFormed: the tier-2 gate refuses a row that is not in IMPL2 (R106) -/

theorem test_gate_refuses_base : Instr.wellFormed [] .nop = false := by decide
theorem test_gate_refuses_extended : Instr.wellFormed (Tier2Row.base ++ Tier2Row.indexed) .ldir = false := by decide
theorem test_gate_refuses_indexed : Instr.wellFormed (Tier2Row.base ++ Tier2Row.extended) (.jpXY .ix) = false := by decide
theorem test_gate_lets_in_named_row : Instr.wellFormed [.ldir] .ldir = true := by decide
theorem test_gate_lets_in_tier_one : Instr.wellFormed [] (.addAR .b) = true := by decide

/-! ## Decoding: words written from the column "encoding" of spec/opcode_table.json, one for every constructor -/

theorem test_decode_loads_1 :
    reads [0x45] (.ldRR .b .l) &&
    reads [0x7E] (.ldRHL .a) &&
    reads [0x71] (.ldHLR .c) &&
    reads [0x26, 0xA5] (.ldRN .h 0xA5) &&
    reads [0x36, 0x7E] (.ldHLN 0x7E) &&
    reads [0x31, 0x34, 0x12] (.ldDdNN .sp 0x1234) &&
    reads [0xF9] (.ldSPHL) &&
    reads [0xF5] (.push .af) &&
    reads [0xD1] (.pop .de) &&
    reads [0xEB] (.exDEHL) := by decide

theorem test_decode_loads_2 :
    reads [0x08] (.exAFAF) &&
    reads [0xD9] (.exx) &&
    reads [0xE3] (.exSPHL) := by decide

theorem test_decode_add_sub_1 :
    reads [0x82] (.addAR .d) &&
    reads [0x86] (.addAHL) &&
    reads [0xC6, 0x80] (.addAN 0x80) &&
    reads [0x8B] (.adcAR .e) &&
    reads [0x8E] (.adcAHL) &&
    reads [0xCE, 0xA5] (.adcAN 0xA5) &&
    reads [0x90] (.subAR .b) &&
    reads [0x96] (.subAHL) &&
    reads [0xD6, 0x7E] (.subAN 0x7E) &&
    reads [0x9D] (.sbcAR .l) := by decide

theorem test_decode_add_sub_2 :
    reads [0x9E] (.sbcAHL) &&
    reads [0xDE, 0x80] (.sbcAN 0x80) := by decide

theorem test_decode_logic_compare_1 :
    reads [0xA7] (.andAR .a) &&
    reads [0xA6] (.andAHL) &&
    reads [0xE6, 0xA5] (.andAN 0xA5) &&
    reads [0xA9] (.xorAR .c) &&
    reads [0xAE] (.xorAHL) &&
    reads [0xEE, 0x7E] (.xorAN 0x7E) &&
    reads [0xB4] (.orAR .h) &&
    reads [0xB6] (.orAHL) &&
    reads [0xF6, 0x80] (.orAN 0x80) &&
    reads [0xBA] (.cpAR .d) := by decide

theorem test_decode_logic_compare_2 :
    reads [0xBE] (.cpAHL) &&
    reads [0xFE, 0xA5] (.cpAN 0xA5) := by decide

theorem test_decode_inc_dec_add16 :
    reads [0x1C] (.incR .e) &&
    reads [0x34] (.incHL) &&
    reads [0x05] (.decR .b) &&
    reads [0x35] (.decHL) &&
    reads [0x13] (.incSS .de) &&
    reads [0x2B] (.decSS .hl) &&
    reads [0x09] (.addHLSS .bc) := by decide

theorem test_decode_control_io_1 :
    reads [0xC3, 0x34, 0x12] (.jpNN 0x1234) &&
    reads [0xE2, 0x34, 0x12] (.jpCcNN .po 0x1234) &&
    reads [0x18, 0x7E] (.jrE 0x7E) &&
    reads [0x30, 0x80] (.jrCcE .nc 0x80) &&
    reads [0xCD, 0x34, 0x12] (.callNN 0x1234) &&
    reads [0xFC, 0x34, 0x12] (.callCcNN .m 0x1234) &&
    reads [0xC9] (.ret) &&
    reads [0xC8] (.retCc .z) &&
    reads [0xF7] (.rst 6) &&
    reads [0xDB, 0xA5] (.inAN 0xA5) := by decide

theorem test_decode_control_io_2 :
    reads [0xD3, 0x7E] (.outNA 0x7E) &&
    reads [0xFB] (.ei) &&
    reads [0xF3] (.di) &&
    reads [0x76] (.halt) := by decide

theorem test_decode_rotates :
    reads [0xCB, 0x05] (.rlcR .l) &&
    reads [0xCB, 0x06] (.rlcHL) &&
    reads [0xCB, 0x0F] (.rrcR .a) &&
    reads [0xCB, 0x0E] (.rrcHL) &&
    reads [0xCB, 0x11] (.rlR .c) &&
    reads [0xCB, 0x16] (.rlHL) &&
    reads [0xCB, 0x1C] (.rrR .h) &&
    reads [0xCB, 0x1E] (.rrHL) := by decide

theorem test_decode_shifts :
    reads [0xCB, 0x22] (.slaR .d) &&
    reads [0xCB, 0x26] (.slaHL) &&
    reads [0xCB, 0x2B] (.sraR .e) &&
    reads [0xCB, 0x2E] (.sraHL) &&
    reads [0xCB, 0x30] (.sllR .b) &&
    reads [0xCB, 0x36] (.sllHL) &&
    reads [0xCB, 0x3D] (.srlR .l) &&
    reads [0xCB, 0x3E] (.srlHL) := by decide

theorem test_decode_bits :
    reads [0xCB, 0x4F] (.bitR 1 .a) &&
    reads [0xCB, 0x5E] (.bitHL 3) &&
    reads [0xCB, 0xA1] (.resR 4 .c) &&
    reads [0xCB, 0xAE] (.resHL 5) &&
    reads [0xCB, 0xC4] (.setR 0 .h) &&
    reads [0xCB, 0xFE] (.setHL 7) := by decide

theorem test_decode_extended :
    reads [0xED, 0x7A] (.adcHLSS .sp) &&
    reads [0xED, 0x52] (.sbcHLSS .de) &&
    reads [0xED, 0x63, 0x34, 0x12] (.ldMemDd 0x1234 .hl) &&
    reads [0xED, 0x4B, 0x34, 0x12] (.ldDdMem .bc 0x1234) &&
    reads [0xED, 0x50] (.inRC .d) &&
    reads [0xED, 0x59] (.outCR .e) := by decide

theorem test_decode_indexed_1 :
    reads [0xDD, 0x39] (.addXY .ix .sp) &&
    reads [0xFD, 0x23] (.incXY .iy) &&
    reads [0xDD, 0x2B] (.decXY .ix) &&
    reads [0xFD, 0x21, 0x34, 0x12] (.ldXYNN .iy 0x1234) &&
    reads [0xDD, 0x46, 0x05] (.ldRXYd .ix .b 0x05) &&
    reads [0xFD, 0x75, 0xFB] (.ldXYdR .iy 0xFB .l) &&
    reads [0xDD, 0x86, 0x7F] (.addAXYd .ix 0x7F) &&
    reads [0xFD, 0x96, 0x80] (.subAXYd .iy 0x80) &&
    reads [0xDD, 0xA6, 0x05] (.andAXYd .ix 0x05) &&
    reads [0xFD, 0xAE, 0xFB] (.xorAXYd .iy 0xFB) := by decide

theorem test_decode_indexed_2 :
    reads [0xDD, 0xB6, 0x7F] (.orAXYd .ix 0x7F) &&
    reads [0xFD, 0xBE, 0x80] (.cpAXYd .iy 0x80) := by decide

theorem test_decode_indexed_bits_1 :
    reads [0xDD, 0xCB, 0x05, 0x06] (.rlcXYd .ix 0x05) &&
    reads [0xFD, 0xCB, 0xFB, 0x0E] (.rrcXYd .iy 0xFB) &&
    reads [0xDD, 0xCB, 0x7F, 0x16] (.rlXYd .ix 0x7F) &&
    reads [0xFD, 0xCB, 0x80, 0x1E] (.rrXYd .iy 0x80) &&
    reads [0xDD, 0xCB, 0x05, 0x26] (.slaXYd .ix 0x05) &&
    reads [0xFD, 0xCB, 0xFB, 0x2E] (.sraXYd .iy 0xFB) &&
    reads [0xDD, 0xCB, 0x7F, 0x36] (.sllXYd .ix 0x7F) &&
    reads [0xFD, 0xCB, 0x80, 0x3E] (.srlXYd .iy 0x80) &&
    reads [0xDD, 0xCB, 0x05, 0x56] (.bitXYd .ix 2 0x05) &&
    reads [0xFD, 0xCB, 0xFB, 0xB6] (.resXYd .iy 6 0xFB) := by decide

theorem test_decode_indexed_bits_2 :
    reads [0xDD, 0xCB, 0x7F, 0xCE] (.setXYd .ix 1 0x7F) := by decide

theorem test_decode_tier2_base_loads :
    reads [0x00] (.nop) &&
    reads [0x02] (.ldBCA) &&
    reads [0x0A] (.ldABC) &&
    reads [0x12] (.ldDEA) &&
    reads [0x1A] (.ldADE) &&
    reads [0x22, 0x34, 0x12] (.ldMemHL 0x1234) &&
    reads [0x2A, 0x34, 0x12] (.ldHLMem 0x1234) &&
    reads [0x32, 0x34, 0x12] (.ldMemA 0x1234) &&
    reads [0x3A, 0x34, 0x12] (.ldAMem 0x1234) := by decide

theorem test_decode_tier2_base_other :
    reads [0x07] (.rlca) &&
    reads [0x0F] (.rrca) &&
    reads [0x17] (.rla) &&
    reads [0x1F] (.rra) &&
    reads [0x10, 0x80] (.djnz 0x80) &&
    reads [0x27] (.daa) &&
    reads [0x2F] (.cpl) &&
    reads [0x37] (.scf) &&
    reads [0x3F] (.ccf) &&
    reads [0xE9] (.jpHL) := by decide

theorem test_decode_tier2_extended :
    reads [0xED, 0x44] (.neg) &&
    reads [0xED, 0x67] (.rrd) &&
    reads [0xED, 0x6F] (.rld) &&
    reads [0xED, 0xA0] (.ldi) &&
    reads [0xED, 0xA8] (.ldd) &&
    reads [0xED, 0xB0] (.ldir) &&
    reads [0xED, 0xB8] (.lddr) := by decide

theorem test_decode_tier2_blocks_1 :
    reads [0xED, 0xA1] (.cpi) &&
    reads [0xED, 0xA9] (.cpd) &&
    reads [0xED, 0xB1] (.cpir) &&
    reads [0xED, 0xB9] (.cpdr) &&
    reads [0xED, 0xA2] (.ini) &&
    reads [0xED, 0xAA] (.ind) &&
    reads [0xED, 0xB2] (.inir) &&
    reads [0xED, 0xBA] (.indr) &&
    reads [0xED, 0xA3] (.outi) &&
    reads [0xED, 0xAB] (.outd) := by decide

theorem test_decode_tier2_blocks_2 :
    reads [0xED, 0xB3] (.otir) &&
    reads [0xED, 0xBB] (.otdr) := by decide

theorem test_decode_tier2_indexed_1 :
    reads [0xFD, 0x22, 0x34, 0x12] (.ldMemXY 0x1234 .iy) &&
    reads [0xDD, 0x2A, 0x34, 0x12] (.ldXYMem .ix 0x1234) &&
    reads [0xFD, 0x34, 0x80] (.incXYd .iy 0x80) &&
    reads [0xDD, 0x35, 0x05] (.decXYd .ix 0x05) &&
    reads [0xFD, 0x36, 0xFB, 0xA5] (.ldXYdN .iy 0xFB 0xA5) &&
    reads [0xDD, 0x8E, 0x7F] (.adcAXYd .ix 0x7F) &&
    reads [0xFD, 0x9E, 0x80] (.sbcAXYd .iy 0x80) &&
    reads [0xDD, 0xE1] (.popXY .ix) &&
    reads [0xFD, 0xE3] (.exSPXY .iy) &&
    reads [0xDD, 0xE5] (.pushXY .ix) := by decide

theorem test_decode_tier2_indexed_2 :
    reads [0xFD, 0xE9] (.jpXY .iy) &&
    reads [0xDD, 0xF9] (.ldSPXY .ix) := by decide

/-! ## Single steps: the values are those of spec/95_test_vectors.md, vector by vector; F is compared as F & 0xD7, its status view -/

theorem test_v1_ldRR :
    after { engine [0x41] with bc := 0x005A }
      (fun t => t.bc == 0x5A5A && t.pc == 0x0001 && t.f.view == 0x00) = true := by decide
theorem test_v2_ldRHL :
    after { write8 0xFFFF 0x99 (engine [0x7E]) with hl := 0xFFFF }
      (fun t => t.a == 0x99 && t.pc == 0x0001 && t.f.view == 0x00) = true := by decide
theorem test_v3_ldHLR :
    after { engine [0x70] with hl := 0x4000, bc := 0x1200 }
      (fun t => t.pc == 0x0001 && read8 t 0x4000 == 0x12 && t.f.view == 0x00) = true := by decide
theorem test_v5_ldRN :
    after (engine [0x3E, 0x05])
      (fun t => t.a == 0x05 && t.pc == 0x0002 && t.f.view == 0x00) = true := by decide
theorem test_v6_ldHLN :
    after { engine [0x36, 0xAB] with hl := 0x8000 }
      (fun t => t.pc == 0x0002 && read8 t 0x8000 == 0xAB && t.f.view == 0x00) = true := by decide
theorem test_v7_ldDdNN :
    after (engine [0x31, 0xFE, 0xFF])
      (fun t => t.sp == 0xFFFE && t.pc == 0x0003 && t.f.view == 0x00) = true := by decide
theorem test_v9_ldSPHL :
    after { engine [0xF9] with hl := 0xBEEF }
      (fun t => t.sp == 0xBEEF && t.pc == 0x0001 && t.f.view == 0x00) = true := by decide
theorem test_v10_push :
    after { engine [0xC5] with bc := 0x1234, sp := 0x0000 }
      (fun t => t.sp == 0xFFFE && t.pc == 0x0001 && read8 t 0xFFFE == 0x34 && read8 t 0xFFFF == 0x12 && t.f.view == 0x00) = true := by decide
theorem test_v12_pop :
    after { write8 0x7FFF 0x34 (write8 0x7FFE 0xFF (engine [0xF1])) with sp := 0x7FFE }
      (fun t => t.a == 0x34 && t.sp == 0x8000 && t.pc == 0x0001 && t.f.view == 0xD7) = true := by decide
theorem test_v14_exDEHL :
    after { engine [0xEB] with de := 0x1111, hl := 0x2222 }
      (fun t => t.de == 0x2222 && t.hl == 0x1111 && t.pc == 0x0001 && t.f.view == 0x00) = true := by decide
theorem test_v15_exAFAF :
    after { engine [0x08] with a := 0x12, f := Flags.ofByte 0x81, aAlt := 0x34, fAlt := Flags.ofByte 0x44 }
      (fun t => t.a == 0x34 && afAlt t == 0x1281 && t.pc == 0x0001 && t.f.view == 0x44) = true := by decide
theorem test_v16_exx :
    after { engine [0xD9] with bc := 0x0001, de := 0x0002, hl := 0x0003, bcAlt := 0x0004, deAlt := 0x0005, hlAlt := 0x0006 }
      (fun t => t.bc == 0x0004 && t.de == 0x0005 && t.hl == 0x0006 && t.bcAlt == 0x0001 && t.deAlt == 0x0002 && t.hlAlt == 0x0003 && t.pc == 0x0001 && t.f.view == 0x00) = true := by decide
theorem test_v17_exSPHL :
    after { write8 0x8001 0xAB (write8 0x8000 0xCD (engine [0xE3])) with hl := 0x1234, sp := 0x8000 }
      (fun t => t.hl == 0xABCD && t.pc == 0x0001 && read8 t 0x8000 == 0x34 && read8 t 0x8001 == 0x12 && t.f.view == 0x00) = true := by decide
theorem test_v18_addAR :
    after { engine [0x87] with a := 0x80 }
      (fun t => t.a == 0x00 && t.pc == 0x0001 && t.f.view == 0x45) = true := by decide
theorem test_v21_addAN :
    after { engine [0xC6, 0x0F] with a := 0x01 }
      (fun t => t.a == 0x10 && t.pc == 0x0002 && t.f.view == 0x10) = true := by decide
theorem test_v22_adcAR :
    after { engine [0x88] with a := 0xFF, f := Flags.ofByte 0x01, bc := 0x0000 }
      (fun t => t.a == 0x00 && t.pc == 0x0001 && t.f.view == 0x51) = true := by decide
theorem test_v23_adcAHL :
    after { write8 0x4000 0x00 (engine [0x8E]) with a := 0x7F, hl := 0x4000, f := Flags.ofByte 0x01 }
      (fun t => t.a == 0x80 && t.pc == 0x0001 && t.f.view == 0x94) = true := by decide
theorem test_v24_subAR :
    after { engine [0x90] with a := 0x10, bc := 0x0100 }
      (fun t => t.a == 0x0F && t.pc == 0x0001 && t.f.view == 0x02) = true := by decide
theorem test_v25_subAR :
    after { engineBorrow [0x90] with a := 0x10, bc := 0x0100 }
      (fun t => t.a == 0x0F && t.pc == 0x0001 && t.f.view == 0x12) = true := by decide
theorem test_v30_sbcAR :
    after { engine [0x98] with a := 0x00, f := Flags.ofByte 0x01, bc := 0xFF00 }
      (fun t => t.pc == 0x0001 && t.f.view == 0x43) = true := by decide
theorem test_v31_sbcAN :
    after { engine [0xDE, 0x00] with a := 0x00, f := Flags.ofByte 0x01 }
      (fun t => t.a == 0xFF && t.pc == 0x0002 && t.f.view == 0x83) = true := by decide
theorem test_v32_andAR :
    after { engine [0xA0] with a := 0xF0, bc := 0x0F00 }
      (fun t => t.a == 0x00 && t.pc == 0x0001 && t.f.view == 0x54) = true := by decide
theorem test_v33_andAN :
    after { engine [0xE6, 0x81] with a := 0xC3 }
      (fun t => t.a == 0x81 && t.pc == 0x0002 && t.f.view == 0x94) = true := by decide
theorem test_v34_xorAR :
    after { engine [0xAF] with a := 0x77, f := Flags.ofByte 0xD7 }
      (fun t => t.a == 0x00 && t.pc == 0x0001 && t.f.view == 0x44) = true := by decide
theorem test_v36_orAR :
    after { engine [0xB7] with a := 0x80, f := Flags.ofByte 0x01 }
      (fun t => t.pc == 0x0001 && t.f.view == 0x80) = true := by decide
theorem test_v37_orAN :
    after { engine [0xF6, 0x01] with a := 0x02 }
      (fun t => t.a == 0x03 && t.pc == 0x0002 && t.f.view == 0x04) = true := by decide
theorem test_v38_cpAR :
    after { engine [0xB8] with a := 0x40, bc := 0x4000 }
      (fun t => t.pc == 0x0001 && t.f.view == 0x52) = true := by decide
theorem test_v39_cpAN :
    after { engine [0xFE, 0x41] with a := 0x40 }
      (fun t => t.pc == 0x0002 && t.f.view == 0x83) = true := by decide
theorem test_v40_cpAN :
    after { engineBorrow [0xFE, 0x41] with a := 0x40 }
      (fun t => t.pc == 0x0002 && t.f.view == 0x93) = true := by decide
theorem test_v41_cpAHL :
    after { write8 0x4000 0x7F (engine [0xBE]) with a := 0x80, hl := 0x4000 }
      (fun t => t.pc == 0x0001 && t.f.view == 0x06) = true := by decide
theorem test_v42_incR :
    after { engine [0x3C] with a := 0x7F, f := Flags.ofByte 0x01 }
      (fun t => t.a == 0x80 && t.pc == 0x0001 && t.f.view == 0x95) = true := by decide
theorem test_v44_incHL :
    after { write8 0x4000 0x0F (engine [0x34]) with hl := 0x4000 }
      (fun t => t.pc == 0x0001 && read8 t 0x4000 == 0x10 && t.f.view == 0x10) = true := by decide
theorem test_v45_decR :
    after { engine [0x3D] with a := 0x80 }
      (fun t => t.a == 0x7F && t.pc == 0x0001 && t.f.view == 0x16) = true := by decide
theorem test_v46_decR :
    after { engine [0x3D] with a := 0x80, f := Flags.ofByte 0x01 }
      (fun t => t.a == 0x7F && t.pc == 0x0001 && t.f.view == 0x17) = true := by decide
theorem test_v49_decHL :
    after { write8 0x4000 0x10 (engine [0x35]) with hl := 0x4000 }
      (fun t => t.pc == 0x0001 && read8 t 0x4000 == 0x0F && t.f.view == 0x12) = true := by decide
theorem test_v50_incSS :
    after { engine [0x03] with bc := 0xFFFF, f := Flags.ofByte 0xD7 }
      (fun t => t.bc == 0x0000 && t.pc == 0x0001 && t.f.view == 0xD7) = true := by decide
theorem test_v51_decSS :
    after { engine [0x3B] with sp := 0x0000 }
      (fun t => t.sp == 0xFFFF && t.pc == 0x0001 && t.f.view == 0x00) = true := by decide
theorem test_v52_addHLSS :
    after { engine [0x09] with hl := 0x0FFF, bc := 0x0001, f := Flags.ofByte 0xC4 }
      (fun t => t.hl == 0x1000 && t.pc == 0x0001 && t.f.view == 0xD4) = true := by decide
theorem test_v58_ldRN :
    after (engineAt resetParams 0xFFFF [0x3E, 0x05])
      (fun t => t.a == 0x05 && t.pc == 0x0001 && t.f.view == 0x00) = true := by decide
theorem test_v59_jpNN :
    after (engine [0xC3, 0x34, 0x12])
      (fun t => t.pc == 0x1234 && t.f.view == 0x00) = true := by decide
theorem test_v60_jpCcNN :
    after { engine [0xCA, 0x00, 0x40] with f := Flags.ofByte 0x40 }
      (fun t => t.pc == 0x4000 && t.f.view == 0x40) = true := by decide
theorem test_v61_jpCcNN :
    after { engine [0xCA, 0x00, 0x40] with f := Flags.ofByte 0x00 }
      (fun t => t.pc == 0x0003 && t.f.view == 0x00) = true := by decide
theorem test_v64_jrE :
    after (engine [0x18, 0xFE])
      (fun t => t.f.view == 0x00) = true := by decide
theorem test_v67_jrCcE :
    after { engine [0x20, 0x05] with f := Flags.ofByte 0x40 }
      (fun t => t.pc == 0x0002 && t.f.view == 0x40) = true := by decide
theorem test_v69_callNN :
    after { engineAt resetParams 0x0100 [0xCD, 0x34, 0x12] with sp := 0x8000 }
      (fun t => t.sp == 0x7FFE && t.pc == 0x1234 && read8 t 0x7FFE == 0x03 && read8 t 0x7FFF == 0x01 && t.f.view == 0x00) = true := by decide
theorem test_v70_callCcNN :
    after { engine [0xC4, 0x34, 0x12] with sp := 0x8000, f := Flags.ofByte 0x40 }
      (fun t => t.pc == 0x0003 && t.f.view == 0x40) = true := by decide
theorem test_v71_ret :
    after { write8 0x7FFF 0x01 (write8 0x7FFE 0x03 (engine [0xC9])) with sp := 0x7FFE }
      (fun t => t.sp == 0x8000 && t.pc == 0x0103 && t.f.view == 0x00) = true := by decide
theorem test_v72_retCc :
    after { write8 0x7FFF 0x01 (write8 0x7FFE 0x03 (engine [0xD8])) with sp := 0x7FFE, f := Flags.ofByte 0x01 }
      (fun t => t.sp == 0x8000 && t.pc == 0x0103 && t.f.view == 0x01) = true := by decide
theorem test_v73_retCc :
    after { write8 0x7FFF 0x01 (write8 0x7FFE 0x03 (engine [0xD8])) with sp := 0x7FFE, f := Flags.ofByte 0x00 }
      (fun t => t.pc == 0x0001 && t.f.view == 0x00) = true := by decide
theorem test_v74_rst :
    after { engineAt resetParams 0x1234 [0xFF] with sp := 0x8000 }
      (fun t => t.sp == 0x7FFE && t.pc == 0x0038 && read8 t 0x7FFE == 0x35 && read8 t 0x7FFF == 0x12 && t.f.view == 0x00) = true := by decide
theorem test_v76_inAN :
    after { engine [0xDB, 0x25] with a := 0xFF, f := Flags.ofByte 0xD7, slots := (construct resetParams).slots.set 2 (some (device [0x00])) }
      (fun t => t.a == 0x00 && t.pc == 0x0002 && t.f.view == 0xD7 && t.slots[2] == some ⟨[], [.read 5 0x00]⟩) = true := by decide
theorem test_v78_outNA :
    after { engine [0xD3, 0x3F] with a := 0x42, slots := (construct resetParams).slots.set 3 (some (device [0x00])) }
      (fun t => t.pc == 0x0002 && t.f.view == 0x00 && t.slots[3] == some ⟨[], [.write 15 0x42]⟩) = true := by decide
theorem test_v80_ei :
    after (engine [0xFB])
      (fun t => t.pc == 0x0001 && t.iff && t.f.view == 0x00) = true := by decide
theorem test_v83_halt :
    after (engine [0x76])
      (fun t => t.pc == 0x0001 && t.run == .halted && t.f.view == 0x00) = true := by decide
theorem test_v85_rlcR :
    after { engine [0xCB, 0x00] with bc := 0x8100 }
      (fun t => t.bc == 0x0300 && t.pc == 0x0002 && t.f.view == 0x05) = true := by decide
theorem test_v86_rrcR :
    after { engine [0xCB, 0x0F] with a := 0x01 }
      (fun t => t.a == 0x80 && t.pc == 0x0002 && t.f.view == 0x81) = true := by decide
theorem test_v87_rlR :
    after { engine [0xCB, 0x11] with f := Flags.ofByte 0x01, bc := 0x0080 }
      (fun t => t.bc == 0x0001 && t.pc == 0x0002 && t.f.view == 0x01) = true := by decide
theorem test_v88_rrR :
    after { engine [0xCB, 0x1A] with f := Flags.ofByte 0x00, de := 0x0100 }
      (fun t => t.de == 0x0000 && t.pc == 0x0002 && t.f.view == 0x45) = true := by decide
theorem test_v89_slaR :
    after { engine [0xCB, 0x23] with de := 0x00C0 }
      (fun t => t.de == 0x0080 && t.pc == 0x0002 && t.f.view == 0x81) = true := by decide
theorem test_v90_sraR :
    after { engine [0xCB, 0x2C] with hl := 0x8100 }
      (fun t => t.hl == 0xC000 && t.pc == 0x0002 && t.f.view == 0x85) = true := by decide
theorem test_v91_sllR :
    after { engine [0xCB, 0x35] with hl := 0x0080 }
      (fun t => t.hl == 0x0001 && t.pc == 0x0002 && t.f.view == 0x01) = true := by decide
theorem test_v92_srlR :
    after { engine [0xCB, 0x3F] with a := 0x01 }
      (fun t => t.a == 0x00 && t.pc == 0x0002 && t.f.view == 0x45) = true := by decide
theorem test_v93_rlcHL :
    after { write8 0x4000 0x80 (engine [0xCB, 0x06]) with hl := 0x4000 }
      (fun t => t.pc == 0x0002 && read8 t 0x4000 == 0x01 && t.f.view == 0x01) = true := by decide
theorem test_v94_srlHL :
    after { write8 0x4000 0xFF (engine [0xCB, 0x3E]) with hl := 0x4000, f := Flags.ofByte 0xD7 }
      (fun t => t.pc == 0x0002 && read8 t 0x4000 == 0x7F && t.f.view == 0x01) = true := by decide
theorem test_v95_bitR :
    after { engine [0xCB, 0x7F] with a := 0x80, f := Flags.ofByte 0x00 }
      (fun t => t.pc == 0x0002 && t.f.view == 0x10) = true := by decide
theorem test_v96_bitR :
    after { engine [0xCB, 0x7F] with a := 0x80, f := Flags.ofByte 0xD7 }
      (fun t => t.pc == 0x0002 && t.f.view == 0x95) = true := by decide
theorem test_v98_bitHL :
    after { write8 0x4000 0x00 (engine [0xCB, 0x46]) with hl := 0x4000, f := Flags.ofByte 0x01 }
      (fun t => t.pc == 0x0002 && t.f.view == 0x51) = true := by decide
theorem test_v99_resR :
    after { engine [0xCB, 0x87] with a := 0xFF, f := Flags.ofByte 0xD7 }
      (fun t => t.a == 0xFE && t.pc == 0x0002 && t.f.view == 0xD7) = true := by decide
theorem test_v100_resHL :
    after { write8 0x4000 0xFF (engine [0xCB, 0xBE]) with hl := 0x4000 }
      (fun t => t.pc == 0x0002 && read8 t 0x4000 == 0x7F && t.f.view == 0x00) = true := by decide
theorem test_v101_setR :
    after { engine [0xCB, 0xC0] with bc := 0x0000 }
      (fun t => t.bc == 0x0100 && t.pc == 0x0002 && t.f.view == 0x00) = true := by decide
theorem test_v102_setHL :
    after { write8 0x4000 0x00 (engine [0xCB, 0xFE]) with hl := 0x4000 }
      (fun t => t.pc == 0x0002 && read8 t 0x4000 == 0x80 && t.f.view == 0x00) = true := by decide
theorem test_v103_adcHLSS :
    after { engine [0xED, 0x4A] with hl := 0x7FFF, bc := 0x0000, f := Flags.ofByte 0x01 }
      (fun t => t.hl == 0x8000 && t.pc == 0x0002 && t.f.view == 0x94) = true := by decide
theorem test_v106_sbcHLSS :
    after { engine [0xED, 0x42] with hl := 0x0000, bc := 0x0001 }
      (fun t => t.hl == 0xFFFF && t.pc == 0x0002 && t.f.view == 0x83) = true := by decide
theorem test_v111_ldMemDd :
    after { engine [0xED, 0x43, 0x00, 0x40] with bc := 0x1234 }
      (fun t => t.pc == 0x0004 && read8 t 0x4000 == 0x34 && read8 t 0x4001 == 0x12 && t.f.view == 0x00) = true := by decide
theorem test_v113_ldDdMem :
    after (write8 0x4001 0x56 (write8 0x4000 0x78 (engine [0xED, 0x5B, 0x00, 0x40])))
      (fun t => t.de == 0x5678 && t.pc == 0x0004 && t.f.view == 0x00) = true := by decide
theorem test_v115_inRC :
    after { engine [0xED, 0x40] with bc := 0x9925, f := Flags.ofByte 0x01, slots := (construct resetParams).slots.set 2 (some (device [0x80])) }
      (fun t => t.bc == 0x8025 && t.pc == 0x0002 && t.f.view == 0x81 && t.slots[2] == some ⟨[], [.read 5 0x80]⟩) = true := by decide
theorem test_v117_outCR :
    after { engine [0xED, 0x51] with bc := 0x993F, de := 0x4200, slots := (construct resetParams).slots.set 3 (some (device [0x00])) }
      (fun t => t.pc == 0x0002 && t.f.view == 0x00 && t.slots[3] == some ⟨[], [.write 15 0x42]⟩) = true := by decide
theorem test_v120_addXY :
    after { engine [0xDD, 0x09] with ix := 0x0FFF, bc := 0x0001, f := Flags.ofByte 0xC4 }
      (fun t => t.ix == 0x1000 && t.pc == 0x0002 && t.f.view == 0xD4) = true := by decide
theorem test_v123_incXY :
    after { engine [0xDD, 0x23] with ix := 0xFFFF, f := Flags.ofByte 0xD7 }
      (fun t => t.ix == 0x0000 && t.pc == 0x0002 && t.f.view == 0xD7) = true := by decide
theorem test_v124_decXY :
    after { engine [0xFD, 0x2B] with iy := 0x0000 }
      (fun t => t.iy == 0xFFFF && t.pc == 0x0002 && t.f.view == 0x00) = true := by decide
theorem test_v125_ldXYNN :
    after (engine [0xDD, 0x21, 0x00, 0x20])
      (fun t => t.ix == 0x2000 && t.pc == 0x0004 && t.f.view == 0x00) = true := by decide
theorem test_v126_ldRXYd :
    after { write8 0x2002 0x5A (engine [0xDD, 0x7E, 0x02]) with ix := 0x2000 }
      (fun t => t.a == 0x5A && t.pc == 0x0003 && t.f.view == 0x00) = true := by decide
theorem test_v128_ldXYdR :
    after { engine [0xDD, 0x77, 0x02] with ix := 0x2000, a := 0x99 }
      (fun t => t.pc == 0x0003 && read8 t 0x2002 == 0x99 && t.f.view == 0x00) = true := by decide
theorem test_v130_addAXYd :
    after { write8 0x2001 0x01 (engine [0xDD, 0x86, 0x01]) with ix := 0x2000, a := 0x7F }
      (fun t => t.a == 0x80 && t.pc == 0x0003 && t.f.view == 0x94) = true := by decide
theorem test_v131_subAXYd :
    after { write8 0x2000 0x01 (engine [0xFD, 0x96, 0x00]) with iy := 0x2000, a := 0x00 }
      (fun t => t.a == 0xFF && t.pc == 0x0003 && t.f.view == 0x83) = true := by decide
theorem test_v132_andAXYd :
    after { write8 0x2005 0x00 (engine [0xDD, 0xA6, 0x05]) with ix := 0x2000, a := 0xFF }
      (fun t => t.a == 0x00 && t.pc == 0x0003 && t.f.view == 0x54) = true := by decide
theorem test_v133_xorAXYd :
    after { write8 0x2005 0x0F (engine [0xDD, 0xAE, 0x05]) with ix := 0x2000, a := 0xFF }
      (fun t => t.a == 0xF0 && t.pc == 0x0003 && t.f.view == 0x84) = true := by decide
theorem test_v134_orAXYd :
    after { write8 0x007E 0x80 (engine [0xDD, 0xB6, 0x7F]) with ix := 0xFFFF, a := 0x00 }
      (fun t => t.a == 0x80 && t.pc == 0x0003 && t.f.view == 0x80) = true := by decide
theorem test_v135_cpAXYd :
    after { write8 0x1FFE 0x10 (engine [0xFD, 0xBE, 0xFE]) with iy := 0x2000, a := 0x10 }
      (fun t => t.pc == 0x0003 && t.f.view == 0x52) = true := by decide
theorem test_v136_rlcXYd :
    after { write8 0x2002 0x81 (engine [0xDD, 0xCB, 0x02, 0x06]) with ix := 0x2000 }
      (fun t => t.pc == 0x0004 && read8 t 0x2002 == 0x03 && t.f.view == 0x05) = true := by decide
theorem test_v137_rrXYd :
    after { write8 0x1FFF 0x01 (engine [0xFD, 0xCB, 0xFF, 0x1E]) with iy := 0x2000, f := Flags.ofByte 0x01 }
      (fun t => t.pc == 0x0004 && read8 t 0x1FFF == 0x80 && t.f.view == 0x81) = true := by decide
theorem test_v138_sraXYd :
    after { write8 0x2000 0x81 (engine [0xDD, 0xCB, 0x00, 0x2E]) with ix := 0x2000 }
      (fun t => t.pc == 0x0004 && read8 t 0x2000 == 0xC0 && t.f.view == 0x85) = true := by decide
theorem test_v139_sllXYd :
    after { write8 0x2000 0x00 (engine [0xDD, 0xCB, 0x00, 0x36]) with ix := 0x2000 }
      (fun t => t.pc == 0x0004 && read8 t 0x2000 == 0x01 && t.f.view == 0x00) = true := by decide
theorem test_v140_bitXYd :
    after { write8 0x2002 0x80 (engine [0xDD, 0xCB, 0x02, 0x7E]) with ix := 0x2000, f := Flags.ofByte 0x84 }
      (fun t => t.pc == 0x0004 && t.f.view == 0x94) = true := by decide
theorem test_v142_resXYd :
    after { write8 0x2001 0xFF (engine [0xFD, 0xCB, 0x01, 0x86]) with iy := 0x2000 }
      (fun t => t.pc == 0x0004 && read8 t 0x2001 == 0xFE && t.f.view == 0x00) = true := by decide
theorem test_v143_setXYd :
    after { write8 0x1FFE 0x00 (engine [0xDD, 0xCB, 0xFE, 0xFE]) with ix := 0x2000 }
      (fun t => t.pc == 0x0004 && read8 t 0x1FFE == 0x80 && t.f.view == 0x00) = true := by decide
theorem test_v148_nop :
    after (engine [0x00])
      (fun t => t.pc == 0x0001 && t.f.view == 0x00) = true := by decide
theorem test_v150_ldBCA :
    after { engine [0x02] with bc := 0x4000, a := 0x7E }
      (fun t => t.pc == 0x0001 && read8 t 0x4000 == 0x7E && t.f.view == 0x00) = true := by decide
theorem test_v151_ldADE :
    after { write8 0x4000 0x33 (engine [0x1A]) with de := 0x4000 }
      (fun t => t.a == 0x33 && t.pc == 0x0001 && t.f.view == 0x00) = true := by decide
theorem test_v152_ldMemHL :
    after { engine [0x22, 0x00, 0x40] with hl := 0x1234 }
      (fun t => t.pc == 0x0003 && read8 t 0x4000 == 0x34 && read8 t 0x4001 == 0x12 && t.f.view == 0x00) = true := by decide
theorem test_v153_ldHLMem :
    after (write8 0xFFFF 0x78 (engine [0x2A, 0xFF, 0xFF]))
      (fun t => t.hl == 0x2A78 && t.pc == 0x0003 && t.f.view == 0x00) = true := by decide
theorem test_v154_ldMemA :
    after { engine [0x32, 0x00, 0x40] with a := 0x5A }
      (fun t => t.pc == 0x0003 && read8 t 0x4000 == 0x5A && t.f.view == 0x00) = true := by decide
theorem test_v155_ldAMem :
    after (write8 0x4000 0xA5 (engine [0x3A, 0x00, 0x40]))
      (fun t => t.a == 0xA5 && t.pc == 0x0003 && t.f.view == 0x00) = true := by decide
theorem test_v156_rlca :
    after { engine [0x07] with a := 0x81, f := Flags.ofByte 0xC4 }
      (fun t => t.a == 0x03 && t.pc == 0x0001 && t.f.view == 0xC5) = true := by decide
theorem test_v157_rrca :
    after { engine [0x0F] with a := 0x01, f := Flags.ofByte 0x10 }
      (fun t => t.a == 0x80 && t.pc == 0x0001 && t.f.view == 0x01) = true := by decide
theorem test_v158_rla :
    after { engine [0x17] with a := 0x80, f := Flags.ofByte 0x00 }
      (fun t => t.a == 0x00 && t.pc == 0x0001 && t.f.view == 0x01) = true := by decide
theorem test_v159_rra :
    after { engine [0x1F] with a := 0x01, f := Flags.ofByte 0x01 }
      (fun t => t.a == 0x80 && t.pc == 0x0001 && t.f.view == 0x01) = true := by decide
theorem test_v160_djnz :
    after { engine [0x10, 0xFE] with bc := 0x0200 }
      (fun t => t.bc == 0x0100 && t.f.view == 0x00) = true := by decide
theorem test_v163_daa :
    after { engine [0x27] with a := 0x9A, f := Flags.ofByte 0x00 }
      (fun t => t.a == 0x00 && t.pc == 0x0001 && !t.f.s && t.f.z && t.f.pv && !t.f.n && t.f.c) = true := by decide
theorem test_v166_cpl :
    after { engine [0x2F] with a := 0x0F, f := Flags.ofByte 0x00 }
      (fun t => t.a == 0xF0 && t.pc == 0x0001 && t.f.view == 0x12) = true := by decide
theorem test_v167_scf :
    after { engine [0x37] with f := Flags.ofByte 0xD6 }
      (fun t => t.pc == 0x0001 && t.f.view == 0xC5) = true := by decide
theorem test_v168_ccf :
    after { engine [0x3F] with f := Flags.ofByte 0x01 }
      (fun t => t.pc == 0x0001 && t.f.view == 0x10) = true := by decide
theorem test_v170_jpHL :
    after { write8 0x4000 0xFF (engine [0xE9]) with hl := 0x4000 }
      (fun t => t.pc == 0x4000 && t.f.view == 0x00) = true := by decide
theorem test_v171_neg :
    after { engine [0xED, 0x44] with a := 0x01 }
      (fun t => t.a == 0xFF && t.pc == 0x0002 && t.f.view == 0x83) = true := by decide
theorem test_v175_rrd :
    after { write8 0x5000 0x20 (engine [0xED, 0x67]) with a := 0x84, hl := 0x5000 }
      (fun t => t.a == 0x80 && t.pc == 0x0002 && read8 t 0x5000 == 0x42 && t.f.view == 0x80) = true := by decide
theorem test_v176_rld :
    after { write8 0x5000 0x31 (engine [0xED, 0x6F]) with a := 0x7A, hl := 0x5000 }
      (fun t => t.a == 0x73 && t.pc == 0x0002 && read8 t 0x5000 == 0x1A && t.f.view == 0x00) = true := by decide
theorem test_v177_ldi :
    after { write8 0x1111 0x88 (engine [0xED, 0xA0]) with hl := 0x1111, de := 0x2222, bc := 0x0007 }
      (fun t => t.bc == 0x0006 && t.de == 0x2223 && t.hl == 0x1112 && t.pc == 0x0002 && read8 t 0x2222 == 0x88 && t.f.view == 0x04) = true := by decide
theorem test_v178_ldd :
    after { write8 0x1111 0x88 (engine [0xED, 0xA8]) with hl := 0x1111, de := 0x2222, bc := 0x0001 }
      (fun t => t.bc == 0x0000 && t.de == 0x2221 && t.hl == 0x1110 && t.pc == 0x0002 && read8 t 0x2222 == 0x88 && t.f.view == 0x00) = true := by decide
theorem test_v179_ldir :
    after { write8 0x1111 0x88 (engine [0xED, 0xB0]) with hl := 0x1111, de := 0x2222, bc := 0x0003 }
      (fun t => t.bc == 0x0002 && t.de == 0x2223 && t.hl == 0x1112 && read8 t 0x2222 == 0x88 && t.f.view == 0x04) = true := by decide
theorem test_v181_ldir :
    after { write8 0x1111 0x88 (engine [0xED, 0xB0]) with hl := 0x1111, de := 0x2222, bc := 0x0000 }
      (fun t => t.bc == 0xFFFF && t.de == 0x2223 && t.hl == 0x1112 && read8 t 0x2222 == 0x88 && t.f.view == 0x04) = true := by decide
theorem test_v182_lddr :
    after { engine [0xED, 0xB8] with hl := 0x0000, de := 0x0000, bc := 0x0002 }
      (fun t => t.bc == 0x0001 && t.de == 0xFFFF && t.hl == 0xFFFF && t.f.view == 0x04) = true := by decide
theorem test_v183_cpi :
    after { write8 0x1111 0x3B (engine [0xED, 0xA1]) with a := 0x3B, hl := 0x1111, bc := 0x0001 }
      (fun t => t.bc == 0x0000 && t.hl == 0x1112 && t.pc == 0x0002 && t.f.view == 0x52) = true := by decide
theorem test_v184_cpd :
    after { write8 0x1111 0x3C (engine [0xED, 0xA9]) with a := 0x3B, hl := 0x1111, bc := 0x0002, f := Flags.ofByte 0x01 }
      (fun t => t.bc == 0x0001 && t.hl == 0x1110 && t.pc == 0x0002 && t.f.view == 0x87) = true := by decide
theorem test_v185_cpir :
    after { write8 0x1111 0x52 (engine [0xED, 0xB1]) with a := 0xF3, hl := 0x1111, bc := 0x0007 }
      (fun t => t.bc == 0x0006 && t.hl == 0x1112 && t.f.view == 0x96) = true := by decide
theorem test_v186_cpir :
    after { write8 0x1111 0xF3 (engine [0xED, 0xB1]) with a := 0xF3, hl := 0x1111, bc := 0x0007 }
      (fun t => t.bc == 0x0006 && t.hl == 0x1112 && t.pc == 0x0002 && t.f.view == 0x56) = true := by decide
theorem test_v187_cpdr :
    after { write8 0x1111 0x00 (engine [0xED, 0xB9]) with a := 0xF3, hl := 0x1111, bc := 0x0001 }
      (fun t => t.bc == 0x0000 && t.hl == 0x1110 && t.pc == 0x0002 && t.f.view == 0x92) = true := by decide
theorem test_v188_ini :
    after { engine [0xED, 0xA2] with bc := 0x0225, hl := 0x4000, slots := (construct resetParams).slots.set 2 (some (device [0x7B])) }
      (fun t => t.bc == 0x0125 && t.hl == 0x4001 && t.pc == 0x0002 && read8 t 0x4000 == 0x7B && !t.f.z && t.f.n && !t.f.c && t.slots[2] == some ⟨[], [.read 5 0x7B]⟩) = true := by decide
theorem test_v189_inir :
    after { engine [0xED, 0xB2] with bc := 0x0225, hl := 0x4000, slots := (construct resetParams).slots.set 2 (some (device [0x7B])) }
      (fun t => t.bc == 0x0125 && t.hl == 0x4001 && read8 t 0x4000 == 0x7B && !t.f.z && t.f.n && !t.f.c && t.slots[2] == some ⟨[], [.read 5 0x7B]⟩) = true := by decide
theorem test_v190_outi :
    after { write8 0x4000 0x59 (engine [0xED, 0xA3]) with bc := 0x0130, hl := 0x4000, slots := (construct resetParams).slots.set 3 (some (device [0x00])) }
      (fun t => t.bc == 0x0030 && t.hl == 0x4001 && t.pc == 0x0002 && t.f.z && t.f.n && !t.f.c && t.slots[3] == some ⟨[], [.write 0 0x59]⟩) = true := by decide
theorem test_v191_otdr :
    after { write8 0x4000 0x59 (engine [0xED, 0xBB]) with bc := 0x0230, hl := 0x4000, slots := (construct resetParams).slots.set 3 (some (device [0x00])) }
      (fun t => t.bc == 0x0130 && t.hl == 0x3FFF && !t.f.z && t.f.n && !t.f.c && t.slots[3] == some ⟨[], [.write 0 0x59]⟩) = true := by decide
theorem test_v192_ldMemXY :
    after { engine [0xDD, 0x22, 0x00, 0x40] with ix := 0x1234 }
      (fun t => t.pc == 0x0004 && read8 t 0x4000 == 0x34 && read8 t 0x4001 == 0x12 && t.f.view == 0x00) = true := by decide
theorem test_v193_ldXYMem :
    after (write8 0x4001 0x56 (write8 0x4000 0x78 (engine [0xFD, 0x2A, 0x00, 0x40])))
      (fun t => t.iy == 0x5678 && t.pc == 0x0004 && t.f.view == 0x00) = true := by decide
theorem test_v194_incXYd :
    after { write8 0x2005 0x7F (engine [0xDD, 0x34, 0x05]) with ix := 0x2000, f := Flags.ofByte 0x01 }
      (fun t => t.pc == 0x0003 && read8 t 0x2005 == 0x80 && t.f.view == 0x95) = true := by decide
theorem test_v195_decXYd :
    after { write8 0x1FFB 0x00 (engine [0xDD, 0x35, 0xFB]) with ix := 0x2000 }
      (fun t => t.pc == 0x0003 && read8 t 0x1FFB == 0xFF && t.f.view == 0x92) = true := by decide
theorem test_v196_ldXYdN :
    after { engine [0xDD, 0x36, 0x02, 0xAB] with ix := 0x2000 }
      (fun t => t.pc == 0x0004 && read8 t 0x2002 == 0xAB && t.f.view == 0x00) = true := by decide
theorem test_v197_adcAXYd :
    after { write8 0x2000 0x00 (engine [0xDD, 0x8E, 0x00]) with ix := 0x2000, a := 0xFF, f := Flags.ofByte 0x01 }
      (fun t => t.a == 0x00 && t.pc == 0x0003 && t.f.view == 0x51) = true := by decide
theorem test_v198_sbcAXYd :
    after { write8 0x2000 0xFF (engine [0xDD, 0x9E, 0x00]) with ix := 0x2000, a := 0x00, f := Flags.ofByte 0x01 }
      (fun t => t.pc == 0x0003 && t.f.view == 0x43) = true := by decide
theorem test_v199_pushXY :
    after { engine [0xDD, 0xE5] with ix := 0x1234, sp := 0x8000 }
      (fun t => t.sp == 0x7FFE && t.pc == 0x0002 && read8 t 0x7FFE == 0x34 && read8 t 0x7FFF == 0x12 && t.f.view == 0x00) = true := by decide
theorem test_v200_popXY :
    after { write8 0x7FFF 0x12 (write8 0x7FFE 0x34 (engine [0xFD, 0xE1])) with sp := 0x7FFE }
      (fun t => t.iy == 0x1234 && t.sp == 0x8000 && t.pc == 0x0002 && t.f.view == 0x00) = true := by decide
theorem test_v201_exSPXY :
    after { write8 0x8001 0xAB (write8 0x8000 0xCD (engine [0xDD, 0xE3])) with ix := 0x1234, sp := 0x8000 }
      (fun t => t.ix == 0xABCD && t.pc == 0x0002 && read8 t 0x8000 == 0x34 && read8 t 0x8001 == 0x12 && t.f.view == 0x00) = true := by decide
theorem test_v202_jpXY :
    after { engine [0xDD, 0xE9] with ix := 0x4000 }
      (fun t => t.pc == 0x4000 && t.f.view == 0x00) = true := by decide
theorem test_v203_ldSPXY :
    after { engine [0xFD, 0xF9] with iy := 0xBEEF }
      (fun t => t.sp == 0xBEEF && t.pc == 0x0002 && t.f.view == 0x00) = true := by decide
theorem test_v204_unknown :
    (match step { engineAt { resetParams with impl2 := [] } 0x0000 [0xDD, 0x34, 0x05] with ix := 0x2000 } with | .fault r => decide (r = .unknownInstruction [0xDD, 0x34] 0x0000) | _ => false) = true := by decide
theorem test_v205_unknown :
    (match step (engine [0xED, 0x4D]) with | .fault r => decide (r = .unknownInstruction [0xED, 0x4D] 0x0000) | _ => false) = true := by decide
theorem test_v208_unknown :
    (match step (engineAt { resetParams with impl2 := [] } 0x1234 [0x00]) with | .fault r => decide (r = .unknownInstruction [0x00] 0x1234) | _ => false) = true := by decide
theorem test_v209_unknown :
    (match step (engineAt resetParams 0xFFFF [0xED, 0xFF]) with | .fault r => decide (r = .unknownInstruction [0xED, 0xFF] 0xFFFF) | _ => false) = true := by decide
theorem test_v210_unknown :
    (match step (engine [0xFD, 0xCB, 0x7F, 0x47]) with | .fault r => decide (r = .unknownInstruction [0xFD, 0xCB, 0x7F, 0x47] 0x0000) | _ => false) = true := by decide
theorem test_v211_irq :
    after { engineAt resetParams 0x0123 [0x3C] with iff := true, irqPending := true, sp := 0x8000, a := 0x10 }
      (fun t => t.sp == 0x7FFE && t.pc == 0x0038 && !t.irqPending && read8 t 0x7FFE == 0x23 && read8 t 0x7FFF == 0x01 && t.f.view == 0x00) = true := by decide
theorem test_v212_irq :
    after { engineAt resetParams 0x0123 [0x3C] with iff := false, irqPending := true, sp := 0x8000, a := 0x10 }
      (fun t => t.a == 0x11 && t.pc == 0x0124 && t.f.view == 0x00) = true := by decide
theorem test_v214_irq :
    after { engineAt { resetParams with irqEntryClearsIff := true } 0x0123 [0x3C] with iff := true, irqPending := true, sp := 0x8000 }
      (fun t => t.sp == 0x7FFE && t.pc == 0x0038 && !t.iff && !t.irqPending && read8 t 0x7FFE == 0x23 && read8 t 0x7FFF == 0x01 && t.f.view == 0x00) = true := by decide
theorem test_v218_irq :
    after { engineAt resetParams 0xFFFF [0x3C] with iff := true, irqPending := true, sp := 0x0001 }
      (fun t => t.sp == 0xFFFF && t.pc == 0x0038 && !t.irqPending && read8 t 0x0000 == 0xFF && read8 t 0xFFFF == 0xFF && t.f.view == 0x00) = true := by decide
/-! ## Single steps of the instructions without a vector: the values are worked out by hand from the rule of each -/

theorem test_hand_addAHL :
    after { write8 0x4000 0x01 (engine [0x86]) with a := 0x0F, hl := 0x4000 }
      (fun t => t.a == 0x10 && t.f.view == 0x10) = true := by decide
theorem test_hand_adcAN :
    after { engine [0xCE, 0x01] with a := 0xFE, f := Flags.ofByte 0x01 }
      (fun t => t.a == 0x00 && t.f.view == 0x51) = true := by decide
theorem test_hand_subAHL :
    after { write8 0x4000 0x05 (engine [0x96]) with a := 0x03, hl := 0x4000 }
      (fun t => t.a == 0xFE && t.f.view == 0x83) = true := by decide
theorem test_hand_subAN :
    after { engine [0xD6, 0x10] with a := 0x10 }
      (fun t => t.a == 0x00 && t.f.view == 0x52) = true := by decide
theorem test_hand_sbcAHL :
    after { write8 0x4000 0x03 (engine [0x9E]) with a := 0x05, f := Flags.ofByte 0x01, hl := 0x4000 }
      (fun t => t.a == 0x01 && t.f.view == 0x12) = true := by decide
theorem test_hand_andAHL :
    after { write8 0x4000 0x0F (engine [0xA6]) with a := 0x3C, hl := 0x4000 }
      (fun t => t.a == 0x0C && t.f.view == 0x14) = true := by decide
theorem test_hand_xorAHL :
    after { write8 0x4000 0x0F (engine [0xAE]) with a := 0xFF, hl := 0x4000 }
      (fun t => t.a == 0xF0 && t.f.view == 0x84) = true := by decide
theorem test_hand_xorAN :
    after { engine [0xEE, 0xFF] with a := 0x01 }
      (fun t => t.a == 0xFE && t.f.view == 0x80) = true := by decide
theorem test_hand_orAHL :
    after { engine [0xB6] with a := 0x00, f := Flags.ofByte 0x93, hl := 0x4000 }
      (fun t => t.a == 0x00 && t.f.view == 0x44) = true := by decide
theorem test_hand_di :
    after { engine [0xF3] with iff := true }
      (fun t => !t.iff && t.pc == 0x0001) = true := by decide
theorem test_hand_rrcHL :
    after { write8 0x4000 0x01 (engine [0xCB, 0x0E]) with hl := 0x4000 }
      (fun t => read8 t 0x4000 == 0x80 && t.f.view == 0x81) = true := by decide
theorem test_hand_rlHL :
    after { write8 0x4000 0x80 (engine [0xCB, 0x16]) with f := Flags.ofByte 0x01, hl := 0x4000 }
      (fun t => read8 t 0x4000 == 0x01 && t.f.view == 0x01) = true := by decide
theorem test_hand_rrHL :
    after { write8 0x4000 0x01 (engine [0xCB, 0x1E]) with f := Flags.ofByte 0x01, hl := 0x4000 }
      (fun t => read8 t 0x4000 == 0x80 && t.f.view == 0x81) = true := by decide
theorem test_hand_slaHL :
    after { write8 0x4000 0xC0 (engine [0xCB, 0x26]) with hl := 0x4000 }
      (fun t => read8 t 0x4000 == 0x80 && t.f.view == 0x81) = true := by decide
theorem test_hand_sraHL :
    after { write8 0x4000 0x81 (engine [0xCB, 0x2E]) with hl := 0x4000 }
      (fun t => read8 t 0x4000 == 0xC0 && t.f.view == 0x85) = true := by decide
theorem test_hand_sllHL :
    after { write8 0x4000 0x80 (engine [0xCB, 0x36]) with hl := 0x4000 }
      (fun t => read8 t 0x4000 == 0x01 && t.f.view == 0x01) = true := by decide
theorem test_hand_rrcXYd :
    after { write8 0x2005 0x01 (engine [0xDD, 0xCB, 0x05, 0x0E]) with ix := 0x2000 }
      (fun t => read8 t 0x2005 == 0x80 && t.f.view == 0x81) = true := by decide
theorem test_hand_rlXYd :
    after { write8 0x1FFB 0x80 (engine [0xFD, 0xCB, 0xFB, 0x16]) with iy := 0x2000 }
      (fun t => read8 t 0x1FFB == 0x00 && t.f.view == 0x45) = true := by decide
theorem test_hand_slaXYd :
    after { write8 0x2005 0x40 (engine [0xDD, 0xCB, 0x05, 0x26]) with ix := 0x2000 }
      (fun t => read8 t 0x2005 == 0x80 && t.f.view == 0x80) = true := by decide
theorem test_hand_srlXYd :
    after { write8 0x2005 0x03 (engine [0xDD, 0xCB, 0x05, 0x3E]) with ix := 0x2000 }
      (fun t => read8 t 0x2005 == 0x01 && t.f.view == 0x01) = true := by decide
theorem test_hand_ldABC :
    after { write8 0x4000 0x77 (engine [0x0A]) with bc := 0x4000 }
      (fun t => t.a == 0x77 && t.pc == 0x0001) = true := by decide
theorem test_hand_ldDEA :
    after { engine [0x12] with a := 0x77, de := 0x4000 }
      (fun t => read8 t 0x4000 == 0x77 && t.pc == 0x0001) = true := by decide
theorem test_hand_ind :
    after { engine [0xED, 0xAA] with bc := 0x0125, hl := 0x4000, slots := (construct resetParams).slots.set 2 (some (device [0x7B])) }
      (fun t => read8 t 0x4000 == 0x7B && t.hl == 0x3FFF && t.bc == 0x0025 && t.f.z && t.pc == 0x0002) = true := by decide
theorem test_hand_indr :
    after { engine [0xED, 0xBA] with bc := 0x0225, hl := 0x4000, slots := (construct resetParams).slots.set 2 (some (device [0x7B])) }
      (fun t => read8 t 0x4000 == 0x7B && t.bc == 0x0125 && !t.f.z && t.pc == 0x0000) = true := by decide
theorem test_hand_outd :
    after { write8 0x4000 0x59 (engine [0xED, 0xAB]) with bc := 0x0130, hl := 0x4000, slots := (construct resetParams).slots.set 3 (some (device [0x00])) }
      (fun t => t.slots[3] == some ⟨[], [.write 0 0x59]⟩ && t.hl == 0x3FFF && t.f.z) = true := by decide
theorem test_hand_otir :
    after { write8 0x4000 0x59 (engine [0xED, 0xB3]) with bc := 0x0230, hl := 0x4000, slots := (construct resetParams).slots.set 3 (some (device [0x00])) }
      (fun t => t.slots[3] == some ⟨[], [.write 0 0x59]⟩ && t.bc == 0x0130 && t.pc == 0x0000) = true := by decide

/-! ## Disassembly (section 2.10 of spec/95_test_vectors.md) -/

theorem test_disassemble_tier_one :
    disassemble [] ⟨0x3E, 0x05, 0x00, 0x00⟩ = ("LD A,$05", 2) ∧ disassemble [] ⟨0xFD, 0x77, 0xFE, 0x00⟩ = ("LD (IY-2),A", 3) ∧
    disassemble [] ⟨0x20, 0xFB, 0x00, 0x00⟩ = ("JR NZ,-5", 2) ∧ disassemble [] ⟨0xDD, 0xCB, 0x02, 0xFE⟩ = ("SET 7,(IX+2)", 4) := by decide

theorem test_disassemble_gate :
    disassemble [] ⟨0xED, 0xB0, 0x00, 0x00⟩ = ("EXTD", 2) ∧ disassemble Tier2Row.all ⟨0xED, 0xB0, 0x00, 0x00⟩ = ("LDIR", 2) ∧
    disassemble [] ⟨0x00, 0x00, 0x00, 0x00⟩ = ("UNKN", 1) ∧ disassemble Tier2Row.all ⟨0xDD, 0x36, 0x05, 0x99⟩ = ("LD (IX+5),$99", 4) := by decide

/-! ## Several steps of the interrupt, one call of `execute()` after another (vectors V215, V217) -/

theorem test_v215_halt_then_request :
    after { engineAt resetParams 0x0001 [0x3C] with run := .halted, iff := true, irqPending := true, sp := 0x8000 }
      (fun t => t.pc == 0x0038 && t.sp == 0x7FFE && read8 t 0x7FFE == 0x01 && t.run == .running && !t.irqPending) = true := by decide

theorem test_v217_ei_acts_at_once :
    after { engine [0xFB, 0x3C] with irqPending := true, sp := 0x8000 } (fun t => t.iff && t.irqPending && interruptDue t) = true := by decide

/-! ## The opcode table's words and the host's placing -/

theorem test_decode_table_word : decodeTableWord 32 0xDDCB02FE = some (.setXYd .ix 7 0x02) ∧ decodeTableWord 8 0x3E = some (.ldRN .a 0x00) := by
  decide

theorem test_step_runs_placed_word :
    after (State.reset.withFetchWord 16 0x3E05) (fun t => t.a == 0x05 && t.pc == 0x0002) = true := by decide

/-! ## Witnesses: for each statement with hypotheses, a state and operands that meet all of them -/

theorem exists_next {s : State} (h : after s (fun _ => true) = true) : ∃ t, step s = .next t := by
  unfold after at h
  split at h
  · next t ht => exact ⟨t, ht⟩
  · cases h

/-- The two texts that two rows share, each printed as the row's template in 49_disassembler.md R396 says (log 22), with different lengths. -/
theorem test_shared_texts :
    disassemble Tier2Row.all ⟨0xED, 0x63, 0x34, 0x12⟩ = ("LD ($1234),HL", 4) ∧ disassemble Tier2Row.all ⟨0x22, 0x34, 0x12, 0⟩ = ("LD ($1234),HL", 3) ∧
    disassemble Tier2Row.all ⟨0xED, 0x6B, 0x34, 0x12⟩ = ("LD HL,($1234)", 4) ∧ disassemble Tier2Row.all ⟨0x2A, 0x34, 0x12, 0⟩ = ("LD HL,($1234)", 3) := by
  decide

/-- At the spec's default `IMPL2` only the ED rows print those texts (49_disassembler.md section 3, log 22). -/
theorem test_shared_texts_default :
    disassemble [] ⟨0xED, 0x63, 0x34, 0x12⟩ = ("LD ($1234),HL", 4) ∧ disassemble [] ⟨0x22, 0x00, 0x40, 0⟩ = ("UNKN", 1) ∧
    disassemble [] ⟨0xED, 0x6B, 0x34, 0x12⟩ = ("LD HL,($1234)", 4) ∧ disassemble [] ⟨0x2A, 0x00, 0x40, 0⟩ = ("UNKN", 1) := by decide

/-- A registration after the first `execute()` is refused, also when `clear()` came between (log 18). -/
theorem test_register_after_clear :
    Session.apply .clear ⟨construct resetParams, true⟩ = .done ⟨hostClear (construct resetParams), true⟩ ∧
    Session.apply (.register 3 ⟨[], []⟩) ⟨hostClear (construct resetParams), true⟩ = .refused := by
  exact ⟨rfl, rfl⟩

theorem witness_DecodeOfEncode : Instr.wellFormed [.djnz] (.djnz 0xFE) = true := by decide

theorem witness_EncodeOfDecode : decode [] ⟨0xFD, 0xCB, 0x80, 0xFE⟩ = .row (.setXYd .iy 7 0x80) := by decide

theorem witness_UnknownReportsBytesExamined_base : decode [] ⟨0x00, 0x01, 0x02, 0x03⟩ = .unknown [0x00] := by decide

theorem witness_UnknownReportsBytesExamined_two :
    decode [] ⟨0xED, 0xB0, 0x02, 0x03⟩ = .unknown [0xED, 0xB0] ∧ decode Tier2Row.all ⟨0xFD, 0x76, 0x02, 0x03⟩ = .unknown [0xFD, 0x76] := by decide

theorem witness_UnknownReportsBytesExamined_four :
    decode Tier2Row.all ⟨0xDD, 0xCB, 0x02, 0x07⟩ = .unknown [0xDD, 0xCB, 0x02, 0x07] := by decide

/-- Section 5.4 leaves out 216 bytes after `DD` when every tier-2 row is in its table (30_encoding.md section 6), and the bytes it gives a
row do decode. -/
theorem test_indexed_sub_opcodes :
    indexedSubOpcodes.length = 40 ∧ indexedSubOpcodes.Nodup ∧
    (indexedSubOpcodes.all fun b => decide (b = 0xCB) || decide (decode Tier2Row.all ⟨0xFD, b, 0, 0⟩ ≠ .unknown [0xFD, b])) = true := by decide

theorem witness_TierThreeNeverDecodes :
    (0x4D : Byte) ∈ ([0x45, 0x4D] : List Byte) ∧ (0x3F : Byte).toNat < 0x40 ∧ 0x80 ≤ (0x9F : Byte).toNat ∧ (0x9F : Byte).toNat < 0xA0 ∧
    0xC0 ≤ (0xC0 : Byte).toNat ∧ 4 ≤ (0xBF : Byte).toNat % 8 ∧ (0x07 : Byte).toNat % 8 ≠ 6 ∧
    decode Tier2Row.all ⟨0xED, 0x3F, 0, 0⟩ = .unknown [0xED, 0x3F] ∧ decode Tier2Row.all ⟨0xED, 0xC0, 0, 0⟩ = .unknown [0xED, 0xC0] ∧
    decode Tier2Row.all ⟨0xDD, 0x7D, 0, 0⟩ = .unknown [0xDD, 0x7D] ∧
    (0x47 : Byte) ∉ indexedSubOpcodes ∧ (0x01 : Byte) ∉ indexedSubOpcodes ∧ (0xC3 : Byte) ∉ indexedSubOpcodes ∧
    (0x76 : Byte) ∉ indexedSubOpcodes ∧ (0xDD : Byte) ∉ indexedSubOpcodes := by decide

theorem witness_DisassemblyReadsOnlyItsLength :
    (⟨0x76, 0x11, 0x22, 0x33⟩ : Window).bytes.take (disassemble [] ⟨0x76, 0x00, 0x00, 0x00⟩).2 =
      (⟨0x76, 0x00, 0x00, 0x00⟩ : Window).bytes.take (disassemble [] ⟨0x76, 0x00, 0x00, 0x00⟩).2 := by decide

theorem witness_PlaceholderOfEachTable :
    decode [] ⟨0xED, 0x00, 0, 0⟩ = .unknown [0xED, 0x00] ∧ decode [] ⟨0xDD, 0x00, 0, 0⟩ = .unknown [0xDD, 0x00] ∧
    decode [] ⟨0xDD, 0xCB, 0, 0⟩ = .unknown [0xDD, 0xCB, 0, 0] ∧ decode [] ⟨0x00, 0, 0, 0⟩ = .unknown [0x00] := by decide

theorem witness_FetchedBytesEqualDisassembledLength :
    decode resetParams.impl2 (windowAt (engineAt resetParams 0xFFFF [0x3E, 0x05]) 0xFFFF) = .row (.ldRN .a 0x05) ∧
    (engineAt resetParams 0xFFFF [0x3E, 0x05]).pc = 0xFFFF ∧ (engineAt resetParams 0xFFFF [0x3E, 0x05]).fault = none ∧
    ¬((engineAt resetParams 0xFFFF [0x3E, 0x05]).irqPending = true ∧ (engineAt resetParams 0xFFFF [0x3E, 0x05]).iff = true) ∧
    (engineAt resetParams 0xFFFF [0x3E, 0x05]).run = .running ∧ setsPc (.ldRN .a 0x05) = false := by decide

theorem witness_MemoryReadsBackWrites : memWf (engine [0x3E, 0x05]).mem = true ∧ (0xFFFF : Word) + 1 = 0 := by decide

theorem witness_PushThenPop : (engine []).sp = 0 := by decide

theorem witness_StepRunsDecodedInstruction :
    (engineAt resetParams 0xFFFF [0x3E, 0x05]).fault = none ∧ ¬((engineAt resetParams 0xFFFF [0x3E, 0x05]).irqPending = true ∧
      (engineAt resetParams 0xFFFF [0x3E, 0x05]).iff = true) ∧ (engineAt resetParams 0xFFFF [0x3E, 0x05]).run = .running ∧
    decode resetParams.impl2 (windowAt (engineAt resetParams 0xFFFF [0x3E, 0x05]) 0xFFFF) = .row (.ldRN .a 0x05) := by decide

theorem witness_StepOnUnknownBytes :
    (engine [0xED, 0xFF]).fault = none ∧ ¬((engine [0xED, 0xFF]).irqPending = true ∧ (engine [0xED, 0xFF]).iff = true) ∧
    (engine [0xED, 0xFF]).run = .running ∧ decode resetParams.impl2 (windowAt (engine [0xED, 0xFF]) 0) = .unknown [0xED, 0xFF] := by decide

/-- An engine with an interrupt due and `RET` at 0x0038. -/
def dueEngine : State := { write8 0x0038 0xC9 (engine []) with iff := true, irqPending := true, sp := 0x8000 }

theorem witness_InterruptEntry : dueEngine.fault = none ∧ dueEngine.irqPending = true ∧ dueEngine.iff = true := by decide

theorem witness_InterruptThenRet :
    read8 dueEngine 0x0038 = 0xC9 ∧ dueEngine.sp - 2 ≠ 0x0038 ∧ dueEngine.sp - 1 ≠ 0x0038 := by decide

theorem witness_HaltedEngineIdles :
    Instr.nop ≠ .halt ∧ exec .nop (engine []) = .next (engine []) ∧
    { engine [] with run := .halted, irqPending := true }.fault = none ∧ { engine [] with run := .halted, irqPending := true }.run = .halted ∧
    ¬({ engine [] with run := .halted, irqPending := true }.irqPending = true ∧
      { engine [] with run := .halted, irqPending := true }.iff = true) := ⟨by decide, rfl, by decide, by decide, by decide⟩

theorem witness_NoOtherFault : (engine [0x00]).fault = none := by decide

theorem witness_StepKeepsInvariant : Inv (engine [0x36, 0xAB]) ∧ ∃ t, step (engine [0x36, 0xAB]) = .next t :=
  ⟨⟨by decide, by decide⟩, exists_next (by decide)⟩

theorem witness_ReachableStatesMeetInvariant : Reachable resetParams (raiseRequest (loadProgram 0 [0x3C] (construct resetParams))) :=
  .requested _ (.loaded _ _ _ .made)

/-- The faulted engine is among them, and so is the engine that `clear()` makes of it. -/
theorem witness_ReachableStatesMeetInvariant_faulted :
    ∃ r t, Reachable resetParams t ∧ t.fault = some r ∧ r.bytes = [0xED, 0x4D] ∧ Reachable resetParams (hostClear t) := by
  have h : executeCall (loadProgram 0 [0xED, 0x4D] (construct resetParams)) =
      .failed ⟨[0xED, 0x4D], 0⟩ (afterFault ⟨[0xED, 0x4D], 0⟩ (loadProgram 0 [0xED, 0x4D] (construct resetParams))) := by
    unfold executeCall
    rw [show cycle (loadProgram 0 [0xED, 0x4D] (construct resetParams)) = .fault (.unknownInstruction [0xED, 0x4D] 0) from rfl]
  have ht := Reachable.faulted _ _ _ (.loaded _ 0 [0xED, 0x4D] .made) h
  exact ⟨_, _, ht, rfl, rfl, .wasCleared _ ht⟩

/-- The next step of a reachable state can complete. -/
theorem witness_ReachableStatesMeetInvariant_step : ∃ t, step (loadProgram 0 [0x3C] (construct resetParams)) = .next t := exists_next (by decide)

theorem witness_StepKeepsConfiguration : ∃ t, step (engine [0xD3, 0x3F]) = .next t := exists_next (by decide)

theorem witness_InterruptEnableFlag :
    Instr.halt ≠ .ei ∧ Instr.halt ≠ .di ∧ (∃ t, exec .halt (engine []) = .next t) ∧ { engine [] with iff := true }.iff = true :=
  ⟨by decide, by decide, ⟨_, rfl⟩, rfl⟩

theorem witness_ShadowRegistersOnlyExchanged :
    Instr.exx ≠ .exAFAF ∧ Instr.exAFAF ≠ .exx ∧ (∃ t, exec .exx (engine []) = .next t) ∧ ∃ t, exec .exAFAF (engine []) = .next t :=
  ⟨by decide, by decide, ⟨_, rfl⟩, ⟨_, rfl⟩⟩

theorem witness_RequestWaitsUntilTaken_masked :
    (∃ t, step { engine [0x3C] with irqPending := true } = .next t) ∧ (engine [0x3C]).iff = false := ⟨exists_next (by decide), by decide⟩

theorem witness_RequestWaitsUntilTaken_taken :
    after dueEngine (fun t => !t.irqPending) = true ∧ dueEngine.irqPending = true := by decide

theorem witness_FlagWriters : (∃ t, exec .exx (engine []) = .next t) ∧ computesF .exx = false ∧ Instr.exx ≠ .pop .af ∧ Instr.exx ≠ .exAFAF :=
  ⟨⟨_, rfl⟩, by decide, by decide, by decide⟩

theorem witness_MemoryFrame :
    (∃ t, exec (.push .bc) (engine []) = .next t) ∧ (0x0000 : Word) ∉ storedAt (engine []) (.push .bc) ∧
    (∃ t, exec .nop (engine []) = .next t) ∧ (0xFFFF : Word) ∉ storedAt (engine []) .nop :=
  ⟨⟨_, rfl⟩, by decide, ⟨_, rfl⟩, by decide⟩

/-- An engine with a device in slot 2 only. -/
def boundEngine : State := { engine [] with slots := (construct resetParams).slots.set 2 (some (device [0x7B])) }

theorem witness_OneDeviceCallPerPortInstruction :
    portOf boundEngine .nop = none ∧ portOf boundEngine (.inAN 0x25) = some 0x25 ∧ (3 : Fin 16) ≠ slotNumber 0x25 ∧
    boundEngine.slots.get (slotNumber 0x25) = some (device [0x7B]) ∧ boundEngine.slots.get (slotNumber 0x1F) = none ∧
    ∃ t, exec (.inAN 0x25) boundEngine = .next t := by
  refine ⟨by decide, by decide, by decide, by decide, by decide, ⟨_, rfl⟩⟩

theorem witness_PortTransfers :
    boundEngine.slots.get (slotNumber 0x2F) = some ⟨[⟨0x7B, false⟩], []⟩ ∧ boundEngine.slots.get (slotNumber 0x30) = none := by decide

theorem witness_PairLoads : Pair.bc ≠ .sp ∧ Index.ix ≠ .iy := by decide

theorem witness_StackTransfers : StackPair.af ≠ .bc ∧ Index.iy ≠ .ix := by decide

theorem witness_DecimalAddition :
    { engine [] with a := 0x99 }.a = BitVec.ofNat 8 (16 * (99 / 10) + 99 % 10) ∧ (engine []).a = BitVec.ofNat 8 (16 * (0 / 10) + 0 % 10) ∧
    99 < 100 := by decide

theorem witness_AccumulatorRotates :
    (Instr.rra, ShiftOp.rr) ∈ [(Instr.rlca, ShiftOp.rlc), (.rrca, .rrc), (.rla, .rl), (.rra, .rr)] := by decide

theorem witness_ByteIncrementsAndDecrements :
    (0x80 : Byte) = BitVec.ofNat 8 ((0x7F : Byte).toNat + 1) ∧ (0x7E : Byte) = BitVec.ofInt 8 ((0x7F : Byte).toNat - 1) ∧
    (⟨true, false, true, true, false, false⟩ : AluFlags) =
      { s := decide (128 ≤ (0x80 : Byte).toNat), z := decide ((0x80 : Byte).toNat = 0), h := decide ((0x7F : Byte).toNat % 16 = 15)
        pv := decide ((0x7F : Byte) = 0x7F), n := false, c := (engine []).f.c } ∧
    (⟨false, false, false, false, true, false⟩ : AluFlags) =
      { s := decide (128 ≤ (0x7E : Byte).toNat), z := decide ((0x7E : Byte).toNat = 0), h := decide ((0x7F : Byte).toNat % 16 = 0)
        pv := decide ((0x7F : Byte) = 0x80), n := true, c := (engine []).f.c } ∧
    reg8 { engine [] with bc := 0x7F00 } .b = 0x7F ∧ read8 (engine [0x7F]) (engine [0x7F]).hl = 0x7F ∧
    read8 (engine [0x7F]) (moved (index (engine [0x7F]) .iy) 0x00) = 0x7F := by decide

theorem witness_BitWrites :
    reg8 (engine []) .a = 0x00 ∧ read8 (engine [0x81]) (engine [0x81]).hl = 0x81 ∧
    read8 (engine [0x81]) (moved (index (engine [0x81]) .ix) 0x00) = 0x81 := by decide

theorem witness_Jumps :
    (Cond.m, (engine []).f.s) ∈ [(Cond.nz, !(engine []).f.z), (.z, (engine []).f.z), (.nc, !(engine []).f.c), (.c, (engine []).f.c),
      (.po, !(engine []).f.pv), (.pe, (engine []).f.pv), (.p, !(engine []).f.s), (.m, (engine []).f.s)] ∧
    (RelCond.nc, !(engine []).f.c) ∈ [(RelCond.nz, !(engine []).f.z), (.z, (engine []).f.z), (.nc, !(engine []).f.c), (.c, (engine []).f.c)] := by
  decide

theorem witness_CallsAndReturns : condHolds (engine []).f .nz = true ∧ condHolds (engine []).f .z = false := by decide

theorem witness_CallThenReturn : (0x0000 : Word) ≠ (engine []).sp - 1 ∧ (0x0000 : Word) ≠ (engine []).sp - 2 := by decide

theorem witness_BlockMoves :
    (Instr.lddr, (-1 : Int), true) ∈ [(Instr.ldi, (1 : Int), false), (.ldd, -1, false), (.ldir, 1, true), (.lddr, -1, true)] := by decide

theorem witness_BlockCompares :
    (Instr.cpi, (1 : Int), false) ∈ [(Instr.cpi, (1 : Int), false), (.cpd, -1, false), (.cpir, 1, true), (.cpdr, -1, true)] := by decide

theorem witness_BlockPortTransfers :
    (Instr.otdr, false, (-1 : Int), true) ∈
      [(Instr.ini, true, (1 : Int), false), (.ind, true, -1, false), (.inir, true, 1, true), (.indr, true, -1, true),
        (.outi, false, 1, false), (.outd, false, -1, false), (.otir, false, 1, true), (.otdr, false, -1, true)] := by decide

theorem witness_LoadProgramWraps :
    1 < ([0x11, 0x22] : List Byte).length ∧ ([0x11, 0x22] : List Byte).length ≤ 1 + 65536 ∧
    read8 (loadProgram 0xFFFF [0x11, 0x22] (engine [])) 0x0000 = 0x22 ∧
    ∀ k, k < ([0x11, 0x22] : List Byte).length → (0x8000 : Word) ≠ 0xFFFF + BitVec.ofNat 16 k := by decide

theorem witness_PeripheralRegistration :
    boundEngine.slots[15] = none ∧ boundEngine.slots[0] = none ∧ boundEngine.slots[2] ≠ none ∧ 16 ≤ 16 := by decide

theorem witness_FaultLeavesStateAlone : executeCall (engine [0xED, 0x4D]) = .failed ⟨[0xED, 0x4D], 0⟩ (afterFault ⟨[0xED, 0x4D], 0⟩ (engine [0xED, 0x4D])) := by
  have h : step (engine [0xED, 0x4D]) = .fault (.unknownInstruction [0xED, 0x4D] 0) := by rfl
  unfold executeCall
  rw [show cycle (engine [0xED, 0x4D]) = _ from h]

end Sys2Proof.Tests
end

section
/-! PROOFS. The state family (10_state.md): the stack primitives (R25, R66) and the run state (R31). -/

namespace Sys2Proof.Machine

/-! ## The stack -/

/-- The word at the new SP is the one pushed. -/
theorem wordStored_push16_sp (v : Word) (s : State) : WordStored s (push16 v s) (push16 v s).sp v := by
  rw [push16_sp]
  exact wordStored_push16 v s

/-- A pop right after a push returns the value pushed. -/
theorem popped_push16 (v : Word) (s : State) : popped (push16 v s) = v :=
  read16_of_wordStored (wordStored_push16_sp v s)

/-- A pop right after a push brings SP back. -/
theorem dropTop_push16_sp (v : Word) (s : State) : (dropTop (push16 v s)).sp = s.sp := by
  rw [dropTop_sp, push16_sp, BitVec.sub_add_cancel]

/-- The wrap of R66: the first push at SP = 0 lands in the two topmost cells. -/
theorem push16_of_sp_zero (v : Word) {s : State} (h : s.sp = 0) :
    (push16 v s).sp = 0xFFFE ∧ read8 (push16 v s) 0xFFFF = BitVec.ofNat 8 (v.toNat / 256) ∧
      read8 (push16 v s) 0xFFFE = BitVec.ofNat 8 v.toNat := by
  have hsp : (push16 v s).sp = 0xFFFE := by rw [push16_sp, h]; rfl
  have hword := wordStored_push16_sp v s
  rw [hsp] at hword
  obtain ⟨hlow, hhigh, -⟩ := hword
  exact ⟨hsp, hhigh, hlow⟩

/-- The entry pushes the PC as CALL does; consuming the request first touches neither SP nor Memory. -/
theorem takeInterrupt_pushes_pc (s : State) :
    (takeInterrupt s).sp = (push16 s.pc s).sp ∧ (takeInterrupt s).mem = (push16 s.pc s).mem :=
  ⟨rfl, rfl⟩

/-! ## The run state -/

@[simp] theorem accAdd_run (x : Byte) (s : State) : (accAdd x s).run = s.run := rfl
@[simp] theorem accAdc_run (x : Byte) (s : State) : (accAdc x s).run = s.run := rfl
@[simp] theorem accSub_run (x : Byte) (s : State) : (accSub x s).run = s.run := rfl
@[simp] theorem accSbc_run (x : Byte) (s : State) : (accSbc x s).run = s.run := rfl
@[simp] theorem accAnd_run (x : Byte) (s : State) : (accAnd x s).run = s.run := rfl
@[simp] theorem accXor_run (x : Byte) (s : State) : (accXor x s).run = s.run := rfl
@[simp] theorem accOr_run (x : Byte) (s : State) : (accOr x s).run = s.run := rfl
@[simp] theorem accCp_run (x : Byte) (s : State) : (accCp x s).run = s.run := rfl
@[simp] theorem rotAcc_run (g : Byte → Byte × Bool) (s : State) : (rotAcc g s).run = s.run := rfl

/-- Of all meanings only that of `HALT` writes the run state: the shared operations leave it alone, on both sides of a condition. -/
theorem exec_keeps_run {i : Instr} {s t : State} (hi : i ≠ .halt) (h : exec i s = .next t) : t.run = s.run := by
  cases i
  case halt => exact absurd rfl hi
  case jpCcNN | jrCcE | callCcNN | retCc | djnz => cases h; split <;> rfl
  all_goals cases h; simp

/-- A HALTED engine with no interrupt due steps to itself (R31). -/
theorem step_of_halted {s : State} (hf : s.fault = none) (hr : s.run = .halted) (hd : ¬(s.irqPending = true ∧ s.iff = true)) :
    step s = .next s := by
  simp [step, cycle, executeCycle, hf, hr, interruptDue_eq_false hd]

/-- A machine in a state that its own step leaves alone stays there for any number of steps. -/
theorem run_of_step_eq_self (M : Host.Core) {s : M.State} (h : M.step s = .next s) (k : Nat) : M.run k s = .next s := by
  induction k with
  | zero => rfl
  | succ k ih => rw [Host.Core.run, h]; exact ih

end Sys2Proof.Machine

open Sys2Proof Sys2Proof.Machine

/-- Settles O10: a push is one word stored below SP, which the next pop reads back; the meaning of each instruction named, and the interrupt
entry, is one of these two primitives. -/
theorem pushThenPop : Obligations.PushThenPop := by
  intro s v
  refine ⟨⟨push16_sp v s, wordStored_push16 v s, popped_push16 v s, push16_eq v s⟩,
    ⟨popped_eq s, rfl, popped_push16 v s, dropTop_push16_sp v s⟩, push16_of_sp_zero v, ?_⟩
  exact ⟨fun _ => rfl, fun _ => rfl, rfl, fun _ => rfl, takeInterrupt_pushes_pc s, fun _ => rfl, fun _ => rfl, rfl⟩

/-- Settles O15: of the instructions only `HALT` writes the run state, and a HALTED engine with no interrupt due steps to itself, so
every run from it ends where it began. -/
theorem haltedEngineIdles : Obligations.HaltedEngineIdles := by
  refine ⟨⟨rfl, rfl⟩, fun s => ⟨_, rfl, rfl⟩, fun i s t hi h => exec_keeps_run hi h,
    fun s => ⟨takeInterrupt_run s, hostReset_run s⟩, fun s k hf hr hd => ?_⟩
  exact run_of_step_eq_self core (step_of_halted hf hr hd) k

end

section
/-! PROOFS. The flag family (40_alu_flags.md): 8-bit INC and DEC (R127, R128), and the rotates and shifts on a register (R130 to R137). -/

namespace Sys2Proof.Machine

/-! ## Increment and decrement -/

/-- Z of a result as a fact about its value. -/
theorem beq_zero_eq_decide_toNat (r : Byte) : (r == 0) = decide (r.toNat = 0) := by
  rw [Bool.eq_iff_iff]; simp [BitVec.toNat_eq]

/-- R127 with S and Z read off the new value. -/
theorem inc8_eq_of_result {v up : Byte} (hup : up = BitVec.ofNat 8 (v.toNat + 1)) (c : Bool) :
    inc8 v c = (up, { s := decide (128 ≤ up.toNat), z := decide (up.toNat = 0), h := decide (v.toNat % 16 = 15)
                      pv := decide (v = 0x7F), n := false, c := c }) := by
  have hres : v + 1 = up := (congrArg Prod.fst (inc8_eq v c)).trans hup.symm
  rw [inc8, hres, BitVec.msb_eq_decide, beq_zero_eq_decide_toNat]
  rfl

/-- R128 with S and Z read off the new value. -/
theorem dec8_eq_of_result {v down : Byte} (hdown : down = BitVec.ofInt 8 (v.toNat - 1)) (c : Bool) :
    dec8 v c = (down, { s := decide (128 ≤ down.toNat), z := decide (down.toNat = 0), h := decide (v.toNat % 16 = 0)
                        pv := decide (v = 0x80), n := true, c := c }) := by
  have hres : v - 1 = down := (congrArg Prod.fst (dec8_eq v c)).trans hdown.symm
  rw [dec8, hres, BitVec.msb_eq_decide, beq_zero_eq_decide_toNat]
  rfl

section
variable {s : State} {v res : Byte} {fl : AluFlags}

theorem setsReg_of_incReg {i : Instr} {r : Reg8} (hi : exec i s = .next (incReg r s)) (hv : reg8 s r = v)
    (h : inc8 v s.f.c = (res, fl)) : SetsReg i s r res fl :=
  setsReg_intro (by rw [hi, incReg, hv, h])

theorem setsReg_of_decReg {i : Instr} {r : Reg8} (hi : exec i s = .next (decReg r s)) (hv : reg8 s r = v)
    (h : dec8 v s.f.c = (res, fl)) : SetsReg i s r res fl :=
  setsReg_intro (by rw [hi, decReg, hv, h])

/-- An instruction that is INC on the byte at an address, whichever way it forms the address. -/
theorem setsByte_of_incMem {i : Instr} {a : Word} (hi : exec i s = .next (incMem a s)) (hv : read8 s a = v)
    (h : inc8 v s.f.c = (res, fl)) : SetsByte i s a res fl :=
  setsByte_intro (by rw [hi, incMem, hv, h])

/-- An instruction that is DEC on the byte at an address, whichever way it forms the address. -/
theorem setsByte_of_decMem {i : Instr} {a : Word} (hi : exec i s = .next (decMem a s)) (hv : read8 s a = v)
    (h : dec8 v s.f.c = (res, fl)) : SetsByte i s a res fl :=
  setsByte_intro (by rw [hi, decMem, hv, h])

end

theorem exec_incXYd (x : Index) (d : Byte) (s : State) : exec (.incXYd x d) s = .next (incMem (moved (index s x) d) s) := by
  rw [← effAddr_eq]; rfl

theorem exec_decXYd (x : Index) (d : Byte) (s : State) : exec (.decXYd x d) s = .next (decMem (moved (index s x) d) s) := by
  rw [← effAddr_eq]; rfl

/-! ## Rotates and shifts on a register -/

theorem exec_onReg (op : ShiftOp) (r : Reg8) (s : State) : exec (op.onReg r) s = .next (rotReg (op.apply · s.f.c) r s) := by
  cases op <;> rfl

/-- The result and the ejected bit of the model's bit operation are those of the exact arithmetic (R129 to R137). -/
theorem rotReg_apply (op : ShiftOp) (r : Reg8) (s : State) :
    rotReg (op.apply · s.f.c) r s =
      writeF (resultFlags (op.result (reg8 s r) s.f.c) false (op.ejected (reg8 s r))) (setReg8 r (op.result (reg8 s r) s.f.c) s) := by
  rw [rotReg, rotFlags_eq, ShiftOp.apply_eq]

theorem encode_onReg (op : ShiftOp) (r : Reg8) :
    encode (op.onReg r) = [0xCB, opcodeXYZ 0 (BitVec.ofNat 3 op.number) (reg8Code r)] := by
  cases op <;> rfl

theorem ShiftOp.number_lt (op : ShiftOp) : op.number < 8 := by
  cases op <;> decide

/-- A byte of the first quarter of a table holds y above its low three bits (R91). -/
theorem toNat_opcodeXYZ_zero_div (y z : BitVec 3) : (opcodeXYZ 0 y z).toNat / 8 = y.toNat := by
  revert y z; decide

end Sys2Proof.Machine

open Sys2Proof Sys2Proof.Machine

/-- Settles O36: every form is `inc8` or `dec8` on its operand, and these two give the result and the flags of R127 and R128. -/
theorem byteIncrementsAndDecrements : Obligations.ByteIncrementsAndDecrements := by
  rintro s v up down upFlags downFlags hup hdown rfl rfl
  have hinc := inc8_eq_of_result hup s.f.c
  have hdec := dec8_eq_of_result hdown s.f.c
  exact ⟨fun r hv => ⟨setsReg_of_incReg rfl hv hinc, setsReg_of_decReg rfl hv hdec⟩,
    fun hv => ⟨setsByte_of_incMem rfl hv hinc, setsByte_of_decMem rfl hv hdec⟩,
    fun x d hv => ⟨setsByte_of_incMem (exec_incXYd x d s) hv hinc, setsByte_of_decMem (exec_decXYd x d s) hv hdec⟩⟩

/-- Settles O43: the second byte holds the operation's number as its y field, and the register takes the result and the flags that the
exact arithmetic gives. -/
theorem registerShifts : Obligations.RegisterShifts := by
  intro s op r
  refine ⟨⟨_, encode_onReg op r, ?_⟩, setsReg_intro ?_⟩
  · rw [toNat_opcodeXYZ_zero_div, BitVec.toNat_ofNat, Nat.mod_eq_of_lt op.number_lt]
  · rw [exec_onReg, rotReg_apply]

end

section
/-! PROOFS. The disassembler family (49_disassembler.md): the length invariant (R398). Each table is read one opcode at a time with its
operand bytes left free; from that follow the bytes of a row and the number of its `Fetch8()` calls. -/

namespace Sys2Proof

/-! ## Opcodes by their fields -/

theorem forall_quarter {P : BitVec 2 → Prop} (h0 : P 0) (h1 : P 1) (h2 : P 2) (h3 : P 3) : ∀ x, P x := by
  intro x
  have hx : x = 0 ∨ x = 1 ∨ x = 2 ∨ x = 3 := by revert x; decide
  rcases hx with rfl | rfl | rfl | rfl <;> assumption

theorem forall_octal {P : BitVec 3 → Prop} (h0 : P 0) (h1 : P 1) (h2 : P 2) (h3 : P 3) (h4 : P 4) (h5 : P 5) (h6 : P 6) (h7 : P 7) :
    ∀ y, P y := by
  intro y
  have hy : y = 0 ∨ y = 1 ∨ y = 2 ∨ y = 3 ∨ y = 4 ∨ y = 5 ∨ y = 6 ∨ y = 7 := by revert y; decide
  rcases hy with rfl | rfl | rfl | rfl | rfl | rfl | rfl | rfl <;> assumption

theorem forall_opcode {P : Byte → Prop} (h : ∀ x y z, P (opcodeXYZ x y z)) (op : Byte) : P op := by
  rw [byte_eq_opcodeXYZ op]
  exact h _ _ _

/-! ## The rows of each table -/

/-- The encoder gives every instruction as many bytes as its format says (R81). -/
theorem encode_length (i : Instr) : (encode i).length = i.length := by cases i <;> rfl

/-- The two bytes after the opcode, as an instruction of the given format holds them: a 16-bit operand is taken apart again. -/
def operandBytes (fmt : Format) (o1 o2 : Byte) : List Byte :=
  match fmt with
  | .b3nn | .ed4nn | .x4nn => [immLo (imm16 o1 o2), immHi (imm16 o1 o2)]
  | .b1 | .b2n | .b2e | .cb2 | .ed2 | .x2 | .x3d | .x4dn | .xcb4 => [o1, o2]

theorem operandBytes_eq (fmt : Format) (o1 o2 : Byte) : operandBytes fmt o1 o2 = [o1, o2] := by
  cases fmt <;> simp [operandBytes, immLo_imm16, immHi_imm16]

/-- The row `found` behind the opcode bytes `seen` with the operand bytes `o1` and `o2` is encoded by just these bytes, and the row `blank`,
looked up from the opcode alone, has the same gate and the same length (R105). The two sides have different heads, `map` and `bind`, so that
a check by `rfl` computes both lookups and never compares them. -/
def RowOfOpcode (seen : List Byte) (o1 o2 : Byte) (found blank : Option Instr) : Prop :=
  found.map (fun i => (encode i, i.tier2Row, i.length)) =
    blank.bind (fun j => some (seen ++ (operandBytes j.format o1 o2).take (j.length - seen.length), j.tier2Row, j.length))

theorem baseRow_rowOfOpcode (op o1 o2 : Byte) : RowOfOpcode [op] o1 o2 (baseRow op o1 o2) (baseRow op 0 0) := by
  revert op
  refine forall_opcode ?_
  apply forall_quarter <;> apply forall_octal <;> apply forall_octal <;> rfl

theorem edRow_rowOfOpcode (sub o1 o2 : Byte) : RowOfOpcode [0xED, sub] o1 o2 (edRow sub o1 o2) (edRow sub 0 0) := by
  revert sub
  refine forall_opcode ?_
  apply forall_quarter <;> apply forall_octal <;> apply forall_octal <;> rfl

/-- The index register plays no part in the length, so one lookup serves `DD` and `FD` (R86). -/
theorem xyRow_rowOfOpcode (x : Index) (sub o1 o2 : Byte) :
    RowOfOpcode [indexByte x, sub] o1 o2 (xyRow x sub o1 o2) (xyRow .ix sub 0 0) := by
  revert sub
  refine forall_opcode ?_
  apply forall_quarter <;> apply forall_octal <;> apply forall_octal <;> rfl

theorem encode_cbRow (sub : Byte) : encode (cbRow sub) = [0xCB, sub] := by revert sub; decide

theorem encode_of_xycbRow {x : Index} {d sub : Byte} {i : Instr} (h : xycbRow x d sub = some i) :
    encode i = [indexByte x, 0xCB, d, sub] := by
  have hz : opZ sub = 6 := by
    by_contra hz
    rw [xycbRow, if_neg hz] at h
    cases h
  have hrow : ∀ q y, (xycbRow x d (opcodeXYZ q y 6)).map encode = some [indexByte x, 0xCB, d, opcodeXYZ q y 6] := by
    apply forall_quarter <;> apply forall_octal <;> rfl
  have hsub := byte_eq_opcodeXYZ sub
  rw [hz] at hsub
  have hfound := hrow (sub.extractLsb' 6 2) (opY sub)
  rw [← hsub, h] at hfound
  exact Option.some.inj hfound

section
variable {seen : List Byte} {o1 o2 : Byte} {i : Instr} {blank : Option Instr}

/-- What `RowOfOpcode` says of the two rows when there is one. -/
theorem RowOfOpcode.exists_blank (h : RowOfOpcode seen o1 o2 (some i) blank) :
    encode i = seen ++ [o1, o2].take (i.length - seen.length) ∧
      ∃ j, blank = some j ∧ j.tier2Row = i.tier2Row ∧ j.length = i.length := by
  obtain ⟨j, hj, he⟩ := Option.bind_eq_some_iff.1 h.symm
  obtain ⟨hbytes, hrest⟩ := Prod.mk.inj (Option.some.inj he)
  obtain ⟨htier, hlen⟩ := Prod.mk.inj hrest
  rw [operandBytes_eq, hlen] at hbytes
  exact ⟨hbytes.symm, j, hj, htier, hlen⟩

theorem RowOfOpcode.encode_begins (h : RowOfOpcode seen o1 o2 (some i) blank) : encode i <+: seen ++ [o1, o2] := by
  obtain ⟨hbytes, -⟩ := h.exists_blank
  refine ⟨[o1, o2].drop (i.length - seen.length), ?_⟩
  rw [hbytes, List.append_assoc, List.take_append_drop]

end

/-! ## A window with a row -/

theorem leadIn_cases (b0 : Byte) : b0 = 0xCB ∨ b0 = 0xED ∨ (∃ x, b0 = indexByte x) ∨ b0 ∉ leadIns := by
  by_cases h : b0 ∈ leadIns
  · simp only [leadIns, List.mem_cons, List.not_mem_nil, or_false] at h
    rcases h with h | h | h | h
    · exact .inl h
    · exact .inr (.inl h)
    · exact .inr (.inr (.inl ⟨.ix, h⟩))
    · exact .inr (.inr (.inl ⟨.iy, h⟩))
  · exact .inr (.inr (.inr h))

/-- The five ways a window holds a row, one for each table (R82 to R87). -/
theorem rowAt_cases {w : Window} {i : Instr} (h : rowAt w = some i) :
    (w.b0 = 0xCB ∧ i = cbRow w.b1) ∨
    (w.b0 = 0xED ∧ edRow w.b1 w.b2 w.b3 = some i) ∨
    (∃ x, w.b0 = indexByte x ∧ w.b1 = 0xCB ∧ xycbRow x w.b2 w.b3 = some i) ∨
    (∃ x, w.b0 = indexByte x ∧ w.b1 ≠ 0xCB ∧ xyRow x w.b1 w.b2 w.b3 = some i) ∨
    (w.b0 ∉ leadIns ∧ baseRow w.b0 w.b1 w.b2 = some i) := by
  obtain ⟨b0, b1, b2, b3⟩ := w
  rcases leadIn_cases b0 with rfl | rfl | ⟨x, rfl⟩ | hb0
  · rw [rowAt_cb] at h
    exact .inl ⟨rfl, (Option.some.inj h).symm⟩
  · rw [rowAt_ed] at h
    exact .inr (.inl ⟨rfl, h⟩)
  · by_cases hb1 : b1 = 0xCB
    · subst hb1
      rw [rowAt_xycb] at h
      exact .inr (.inr (.inl ⟨x, rfl, rfl, h⟩))
    · rw [rowAt_xy x b2 b3 hb1] at h
      exact .inr (.inr (.inr (.inl ⟨x, rfl, hb1, h⟩)))
  · rw [rowAt_base b1 b2 b3 hb0] at h
    exact .inr (.inr (.inr (.inr ⟨hb0, h⟩)))

/-- A window that holds a row begins with the row's bytes. -/
theorem encode_begins_of_rowAt {w : Window} {i : Instr} (h : rowAt w = some i) : encode i <+: w.bytes := by
  obtain ⟨b0, b1, b2, b3⟩ := w
  rcases rowAt_cases h with ⟨rfl, rfl⟩ | ⟨rfl, hi⟩ | ⟨x, rfl, rfl, hi⟩ | ⟨x, rfl, -, hi⟩ | ⟨-, hi⟩
  · rw [encode_cbRow]
    exact ⟨[b2, b3], rfl⟩
  · exact (hi ▸ edRow_rowOfOpcode b1 b2 b3).encode_begins
  · rw [encode_of_xycbRow hi]
    exact ⟨[], rfl⟩
  · exact (hi ▸ xyRow_rowOfOpcode x b1 b2 b3).encode_begins
  · exact (hi ▸ baseRow_rowOfOpcode b0 b1 b2).encode_begins.trans ⟨[b3], rfl⟩

theorem encode_eq_take_of_rowAt {w : Window} {i : Instr} (h : rowAt w = some i) : encode i = w.bytes.take i.length := by
  obtain ⟨rest, hrest⟩ := encode_begins_of_rowAt h
  rw [← hrest, ← encode_length i, List.take_left]

theorem length_le_four_of_rowAt {w : Window} {i : Instr} (h : rowAt w = some i) : i.length ≤ 4 := by
  rw [← encode_length i]
  exact (encode_begins_of_rowAt h).length_le

end Sys2Proof

namespace Sys2Proof.Machine

/-! ## The fetch one `Fetch8()` at a time -/

theorem fetchMore_fetchMore (m n : Nat) (f : List Byte × State) : fetchMore m (fetchMore n f) = fetchMore (n + m) f := by
  induction n generalizing f with
  | zero => rw [fetchMore, Nat.zero_add]
  | succ n ih => rw [Nat.add_right_comm]; exact ih _

/-- Up to four calls of `Fetch8()` read the front of the window at PC and move PC past it. -/
theorem fetchMore_eq_take {n : Nat} (hn : n ≤ 4) (s : State) :
    fetchMore n ([], s) = ((windowAt s s.pc).bytes.take n, advance n s) := by
  interval_cases n <;> simp [fetchMore, fetch8, read8, windowAt, Window.bytes, advance, BitVec.add_assoc]

/-- A row's operand bytes are those its length leaves after its opcode bytes (R83, R85, R86). -/
theorem operandCount_of_rowOfOpcode {seen : List Byte} {o1 o2 : Byte} {i : Instr} {blank : Option Instr} {impl2 : List Tier2Row}
    (h : RowOfOpcode seen o1 o2 (some i) blank) (hwf : i.wellFormed impl2 = true) :
    seen.length + operandCount impl2 seen.length blank = i.length := by
  obtain ⟨hbytes, j, rfl, htier, hlen⟩ := h.exists_blank
  have hwfj : j.wellFormed impl2 = true := by rw [Instr.wellFormed, htier]; exact hwf
  have hle : seen.length ≤ i.length := by
    rw [← encode_length, hbytes, List.length_append]
    exact Nat.le_add_right _ _
  rw [operandCount, if_pos hwfj, hlen, Nat.add_sub_cancel' hle]

section
variable {s : State}

theorem fetchInstr_cb (h0 : read8 s s.pc = 0xCB) : fetchInstr s = fetchMore 2 ([], s) := if_pos h0

theorem fetchInstr_ed (h0 : read8 s s.pc = 0xED) :
    fetchInstr s = fetchMore (2 + operandCount s.params.impl2 2 (edRow (read8 s (s.pc + 1)) 0 0)) ([], s) := by
  have hcb : read8 s s.pc ≠ 0xCB := by rw [h0]; decide
  rw [← fetchMore_fetchMore]
  exact (if_neg hcb).trans (if_pos h0)

/-- Behind `DD` and `FD` the dispatcher has fetched two bytes when it chooses between the two tables (R86, R87). -/
theorem fetchInstr_indexed {x : Index} (h0 : read8 s s.pc = indexByte x) :
    fetchInstr s =
      if read8 s (s.pc + 1) = 0xCB then fetchMore 4 ([], s)
      else fetchMore (2 + operandCount s.params.impl2 2 (xyRow .ix (read8 s (s.pc + 1)) 0 0)) ([], s) := by
  have hcb : read8 s s.pc ≠ 0xCB := by rw [h0]; cases x <;> decide
  have hed : read8 s s.pc ≠ 0xED := by rw [h0]; cases x <;> decide
  have hxy : read8 s s.pc = 0xDD ∨ read8 s s.pc = 0xFD := by rw [h0]; cases x <;> decide
  rw [← fetchMore_fetchMore]
  exact (if_neg hcb).trans ((if_neg hed).trans (if_pos hxy))

theorem fetchInstr_base (h0 : read8 s s.pc ∉ leadIns) :
    fetchInstr s = fetchMore (1 + operandCount s.params.impl2 1 (baseRow (read8 s s.pc) 0 0)) ([], s) := by
  simp only [leadIns, List.mem_cons, List.not_mem_nil, or_false, not_or] at h0
  obtain ⟨hcb, hed, hxy⟩ := h0
  rw [← fetchMore_fetchMore]
  exact (if_neg hcb).trans ((if_neg hed).trans (if_neg (not_or.2 hxy)))

/-- The fetch of a row is one `Fetch8()` for each byte of the row (R102). -/
theorem fetchInstr_of_row {i : Instr} (h : decode s.params.impl2 (windowAt s s.pc) = .row i) :
    fetchInstr s = fetchMore i.length ([], s) := by
  obtain ⟨hrow, hwf⟩ := (decode_row_iff _ _ _).1 h
  rcases rowAt_cases hrow with ⟨h0, rfl⟩ | ⟨h0, hi⟩ | ⟨x, h0, h1, hi⟩ | ⟨x, h0, h1, hi⟩ | ⟨h0, hi⟩
  · rw [fetchInstr_cb h0, ← encode_length, encode_cbRow]
    rfl
  · rw [fetchInstr_ed h0]
    congr 1
    exact operandCount_of_rowOfOpcode (hi ▸ edRow_rowOfOpcode _ _ _) hwf
  · rw [(fetchInstr_indexed h0).trans (if_pos h1), ← encode_length, encode_of_xycbRow hi]
    rfl
  · rw [(fetchInstr_indexed h0).trans (if_neg h1)]
    congr 1
    exact operandCount_of_rowOfOpcode (hi ▸ xyRow_rowOfOpcode x _ _ _) hwf
  · rw [fetchInstr_base h0]
    congr 1
    exact operandCount_of_rowOfOpcode (hi ▸ baseRow_rowOfOpcode _ _ _) hwf

theorem fetchInstr_eq_encode {i : Instr} (h : decode s.params.impl2 (windowAt s s.pc) = .row i) :
    fetchInstr s = (encode i, advance i.length s) := by
  obtain ⟨hrow, -⟩ := (decode_row_iff _ _ _).1 h
  rw [fetchInstr_of_row h, fetchMore_eq_take (length_le_four_of_rowAt hrow), encode_eq_take_of_rowAt hrow]

/-! ## The step on a row -/

theorem step_of_row {i : Instr} (hf : s.fault = none) (hd : ¬(s.irqPending = true ∧ s.iff = true)) (hr : s.run = .running)
    (h : decode s.params.impl2 (windowAt s s.pc) = .row i) : step s = exec i (advance i.length s) := by
  simp [step, cycle, executeCycle, fetchAndRun, runDecoded, hf, hr, interruptDue_eq_false hd, h]

end

@[simp] theorem accAdd_pc (x : Byte) (s : State) : (accAdd x s).pc = s.pc := rfl
@[simp] theorem accAdc_pc (x : Byte) (s : State) : (accAdc x s).pc = s.pc := rfl
@[simp] theorem accSub_pc (x : Byte) (s : State) : (accSub x s).pc = s.pc := rfl
@[simp] theorem accSbc_pc (x : Byte) (s : State) : (accSbc x s).pc = s.pc := rfl
@[simp] theorem accAnd_pc (x : Byte) (s : State) : (accAnd x s).pc = s.pc := rfl
@[simp] theorem accXor_pc (x : Byte) (s : State) : (accXor x s).pc = s.pc := rfl
@[simp] theorem accOr_pc (x : Byte) (s : State) : (accOr x s).pc = s.pc := rfl
@[simp] theorem accCp_pc (x : Byte) (s : State) : (accCp x s).pc = s.pc := rfl
@[simp] theorem rotAcc_pc (g : Byte → Byte × Bool) (s : State) : (rotAcc g s).pc = s.pc := rfl

/-- An instruction that falls through completes and leaves PC where the fetch put it (R102). -/
theorem exec_falls_through {i : Instr} (hi : setsPc i = false) (s : State) : ∃ t, exec i s = .next t ∧ t.pc = s.pc := by
  cases i
  case ldir | lddr | cpir | cpdr | inir | indr | otir | otdr => cases hi
  case jpNN | jpCcNN | jrE | jrCcE | djnz | jpHL | jpXY => cases hi
  case callNN | callCcNN | rst | ret | retCc => cases hi
  all_goals exact ⟨_, rfl, by simp⟩

end Sys2Proof.Machine

open Sys2Proof Sys2Proof.Machine

/-- Settles O6: the fetch of a row is one `Fetch8()` for each of its bytes, the disassembler reports the length of the same row, and the
step runs it on the state after those fetches. -/
theorem fetchedBytesEqualDisassembledLength : Obligations.FetchedBytesEqualDisassembledLength := by
  intro s i h
  have hfetch := fetchInstr_eq_encode h
  have hdis : (disassembleAt s s.pc).2 = i.length := by rw [disassembleAt, disassemble, h]
  rw [hfetch, hdis]
  refine ⟨rfl, encode_length i, rfl, rfl, fun hf hd hr => ?_⟩
  have hstep := step_of_row hf hd hr h
  refine ⟨hstep, fun hi => ?_⟩
  rw [hstep]
  exact exec_falls_through hi _

end

section
/-! PROOFS. Decoding against encoding (30_encoding.md sections 2 to 5): the bytes of a row select the row, and no other. -/

namespace Sys2Proof

/-! ## The bytes of a row select the row -/

theorem Window.eq_of_bytes {w : Window} {l : List Byte} (h : w.bytes = l) :
    w = ⟨l.getD 0 0, l.getD 1 0, l.getD 2 0, l.getD 3 0⟩ := by
  subst h; rfl

/-- A window that begins with the bytes of an instruction holds that instruction, whatever bytes follow: the converse of
`encode_begins_of_rowAt`. -/
theorem rowAt_of_encode_begins {w : Window} {i : Instr} (h : encode i <+: w.bytes) : rowAt w = some i := by
  obtain ⟨rest, hrest⟩ := h
  rw [Window.eq_of_bytes hrest.symm]
  clear hrest
  cases i
  all_goals simp only [encode, List.cons_append, List.nil_append, List.getD_cons_zero, List.getD_cons_succ]
  -- the base table
  case ldRR dst src => cases dst <;> cases src <;> exact (rowAt_base _ _ _ (by decide)).trans rfl
  case ldRHL r | ldHLR r | ldRN r _ | incR r | decR r => cases r <;> exact (rowAt_base _ _ _ (by decide)).trans rfl
  case addAR r | adcAR r | subAR r | sbcAR r | andAR r | xorAR r | orAR r | cpAR r =>
    cases r <;> exact (rowAt_base _ _ _ (by decide)).trans rfl
  case push p | pop p | incSS p | decSS p | addHLSS p => cases p <;> exact (rowAt_base _ _ _ (by decide)).trans rfl
  case retCc cc | jrCcE cc e => cases cc <;> exact (rowAt_base _ _ _ (by decide)).trans rfl
  case rst t => revert t; apply forall_octal <;> exact (rowAt_base _ _ _ (by decide)).trans rfl
  case ldDdNN p nn =>
    conv_rhs => rw [← imm16_imm nn]
    cases p <;> exact (rowAt_base _ _ _ (by decide)).trans rfl
  case jpCcNN cc nn | callCcNN cc nn =>
    conv_rhs => rw [← imm16_imm nn]
    cases cc <;> exact (rowAt_base _ _ _ (by decide)).trans rfl
  case jpNN nn | callNN nn | ldMemHL nn | ldHLMem nn | ldMemA nn | ldAMem nn =>
    conv_rhs => rw [← imm16_imm nn]
    exact (rowAt_base _ _ _ (by decide)).trans rfl
  -- the CB table
  case rlcR r | rrcR r | rlR r | rrR r | slaR r | sraR r | sllR r | srlR r => cases r <;> exact (rowAt_cb _ _ _).trans rfl
  case rlcHL | rrcHL | rlHL | rrHL | slaHL | sraHL | sllHL | srlHL => exact (rowAt_cb _ _ _).trans rfl
  case bitR b r | resR b r | setR b r => revert b; cases r <;> apply forall_octal <;> exact (rowAt_cb _ _ _).trans rfl
  case bitHL b | resHL b | setHL b => revert b; apply forall_octal <;> exact (rowAt_cb _ _ _).trans rfl
  -- the ED table
  case adcHLSS p | sbcHLSS p => cases p <;> exact (rowAt_ed _ _ _).trans rfl
  case ldMemDd nn p | ldDdMem p nn =>
    conv_rhs => rw [← imm16_imm nn]
    cases p <;> exact (rowAt_ed _ _ _).trans rfl
  case inRC r | outCR r => cases r <;> exact (rowAt_ed _ _ _).trans rfl
  case neg | rrd | rld | ldi | ldd | ldir | lddr | cpi | cpd | cpir | cpdr => exact (rowAt_ed _ _ _).trans rfl
  case ini | ind | inir | indr | outi | outd | otir | otdr => exact (rowAt_ed _ _ _).trans rfl
  -- the DD/FD table
  case addXY x p => cases p <;> exact (rowAt_xy x _ _ (by decide)).trans rfl
  case ldXYNN x nn | ldMemXY nn x | ldXYMem x nn =>
    conv_rhs => rw [← imm16_imm nn]
    exact (rowAt_xy x _ _ (by decide)).trans rfl
  case ldRXYd x r _ | ldXYdR x _ r => cases r <;> exact (rowAt_xy x _ _ (by decide)).trans rfl
  case incXY x | decXY x | popXY x | exSPXY x | pushXY x | jpXY x | ldSPXY x => exact (rowAt_xy x _ _ (by decide)).trans rfl
  case addAXYd x _ | subAXYd x _ | andAXYd x _ | xorAXYd x _ | orAXYd x _ | cpAXYd x _ | adcAXYd x _ | sbcAXYd x _ =>
    exact (rowAt_xy x _ _ (by decide)).trans rfl
  case incXYd x _ | decXYd x _ | ldXYdN x _ _ => exact (rowAt_xy x _ _ (by decide)).trans rfl
  -- the DDCB/FDCB table
  case rlcXYd x _ | rrcXYd x _ | rlXYd x _ | rrXYd x _ | slaXYd x _ | sraXYd x _ | sllXYd x _ | srlXYd x _ =>
    exact (rowAt_xycb x _ _).trans rfl
  case bitXYd x b _ | resXYd x b _ | setXYd x b _ => revert b; apply forall_octal <;> exact (rowAt_xycb x _ _).trans rfl
  -- the rows of the base table without an operand but an immediate byte
  all_goals exact (rowAt_base _ _ _ (by decide)).trans rfl

theorem Instr.length_pos (i : Instr) : 1 ≤ i.length := by
  rw [Instr.length]; cases i.format <;> decide

theorem Instr.length_le_four (i : Instr) : i.length ≤ 4 := by
  rw [Instr.length]; cases i.format <;> decide

theorem windowOf_bytes (l : List Byte) : (windowOf l).bytes = (l ++ [0, 0, 0, 0]).take 4 := by
  match l with
  | [] | [_] | [_, _] | [_, _, _] | _ :: _ :: _ :: _ :: _ => rfl

/-- The first four bytes of a list begin with any piece of at most four that the list begins with. -/
theorem begins_windowOf {l : List Byte} (h : l.length ≤ 4) (rest : List Byte) : l <+: (windowOf (l ++ rest)).bytes := by
  rw [windowOf_bytes, List.append_assoc]
  exact List.prefix_take_iff.2 ⟨List.prefix_append _ _, h⟩

end Sys2Proof

open Sys2Proof Sys2Proof.Machine

/-- Settles O2: the window begins with the row's bytes, which select the row, and the gate lets a well-formed row in. -/
theorem decodeOfEncode : Obligations.DecodeOfEncode := by
  intro impl2 i rest hwf
  have hlen : (encode i).length ≤ 4 := by rw [encode_length]; exact i.length_le_four
  exact (decode_row_iff _ _ _).2 ⟨rowAt_of_encode_begins (begins_windowOf hlen rest), hwf⟩

/-- Settles O3: a window with a row begins with the row's bytes. -/
theorem encodeOfDecode : Obligations.EncodeOfDecode := by
  intro impl2 w i h
  obtain ⟨hrow, hwf⟩ := (decode_row_iff _ _ _).1 h
  exact ⟨hwf, encode_eq_take_of_rowAt hrow, i.length_le_four⟩

end

section
/-! PROOFS. Encodings without a row (30_encoding.md R88, R103, R104, R375) and what the disassembler prints for them (49_disassembler.md R397,
R399, R400). A lookup is again read off the opcode alone, its operand bytes blank. -/

namespace Sys2Proof

/-! ## The bytes examined, table by table -/

theorem bytesExamined_base {b0 : Byte} (b1 b2 b3 : Byte) (h : b0 ∉ leadIns) : bytesExamined ⟨b0, b1, b2, b3⟩ = [b0] := by
  simp only [leadIns, List.mem_cons, List.not_mem_nil, or_false, not_or] at h
  obtain ⟨-, hed, hxy⟩ := h
  exact (if_neg hed).trans (if_neg (not_or.2 hxy))

theorem bytesExamined_ed (b1 b2 b3 : Byte) : bytesExamined ⟨0xED, b1, b2, b3⟩ = [0xED, b1] := if_pos rfl

theorem bytesExamined_indexed (x : Index) (b1 b2 b3 : Byte) :
    bytesExamined ⟨indexByte x, b1, b2, b3⟩ = if b1 = 0xCB then [indexByte x, b1, b2, b3] else [indexByte x, b1] := by
  cases x <;> rfl

/-! ## The gate -/

theorem wellFormed_of_tier2Row_none {i : Instr} (h : i.tier2Row = none) (impl2 : List Tier2Row) : i.wellFormed impl2 = true := by
  rw [Instr.wellFormed, h]

/-- The gate keeps out only tier-2 rows that `IMPL2` does not name (R106). -/
theorem tier2Row_of_not_wellFormed {i : Instr} {impl2 : List Tier2Row} (h : i.wellFormed impl2 = false) :
    ∃ row, i.tier2Row = some row ∧ row ∉ impl2 := by
  unfold Instr.wellFormed at h
  split at h
  · cases h
  · next row hrow => exact ⟨row, hrow, by simpa using h⟩

/-! ## Lookups with blank operand bytes -/

section
variable {seen : List Byte} {o1 o2 : Byte} {found blank : Option Instr}

theorem RowOfOpcode.map_tier2Row (h : RowOfOpcode seen o1 o2 found blank) : found.map Instr.tier2Row = blank.map Instr.tier2Row := by
  cases found with
  | none =>
    cases blank with
    | none => rfl
    | some j => cases h
  | some i =>
    obtain ⟨-, j, rfl, htier, -⟩ := h.exists_blank
    exact congrArg some htier.symm

theorem RowOfOpcode.eq_none_iff (h : RowOfOpcode seen o1 o2 found blank) : found = none ↔ blank = none := by
  rw [← Option.map_eq_none_iff, h.map_tier2Row, Option.map_eq_none_iff]

end

/-- Every opcode but the four lead-in bytes has a row in the base table (section 5.1). -/
theorem exists_baseRow {op : Byte} (o1 o2 : Byte) (h : op ∉ leadIns) : ∃ i, baseRow op o1 o2 = some i := by
  have hblank : ∀ op : Byte, op ∉ leadIns → baseRow op 0 0 ≠ none := by decide
  exact Option.ne_none_iff_exists'.1 fun hnone => hblank op h ((baseRow_rowOfOpcode op o1 o2).eq_none_iff.1 hnone)

/-- The nested table has a row exactly behind `z = 6`, and all its rows are of tier 1 (section 5.5). -/
theorem xycbRow_map_tier2Row (x : Index) (d sub : Byte) :
    (xycbRow x d sub).map Instr.tier2Row = if opZ sub = 6 then some none else none := by
  unfold xycbRow
  split
  · split
    · dsimp only
      split <;> rfl
    all_goals rfl
  · rfl

theorem opZ_eq_six_iff (op : Byte) : opZ op = 6 ↔ op.toNat % 8 = 6 := by revert op; decide

theorem xycbRow_eq_none (x : Index) (d : Byte) {sub : Byte} (h : sub.toNat % 8 ≠ 6) : xycbRow x d sub = none := by
  rw [xycbRow, if_neg (mt (opZ_eq_six_iff sub).1 h)]

/-- A byte after `DD` or `FD` outside section 5.4 has no row (R86). -/
theorem xyRow_eq_none (x : Index) {sub : Byte} (o1 o2 : Byte) (h : sub ∉ Machine.indexedSubOpcodes) : xyRow x sub o1 o2 = none := by
  have hblank : ∀ sub : Byte, sub ∉ Machine.indexedSubOpcodes → xyRow .ix sub 0 0 = none := by decide
  exact (xyRow_rowOfOpcode x sub o1 o2).eq_none_iff.2 (hblank sub h)

/-- Where no table has a row the bytes are unknown under every `IMPL2`. -/
theorem decode_of_rowAt_none {w : Window} (h : rowAt w = none) (impl2 : List Tier2Row) :
    decode impl2 w = .unknown (bytesExamined w) := by
  rw [decode_eq_gate, h]; rfl

/-! ## A window is unknown by the bytes examined alone -/

/-- A window that agrees with another on the bytes the other examines examines the same bytes, and finds a row with the same gate or none. -/
theorem lookup_of_bytesExamined {w v : Window} (h : v.bytes.take (bytesExamined w).length = w.bytes.take (bytesExamined w).length) :
    bytesExamined v = bytesExamined w ∧ (rowAt v).map Instr.tier2Row = (rowAt w).map Instr.tier2Row := by
  obtain ⟨b0, b1, b2, b3⟩ := w
  obtain ⟨c0, c1, c2, c3⟩ := v
  rcases leadIn_cases b0 with rfl | rfl | ⟨x, rfl⟩ | hb0
  · obtain ⟨rfl, -⟩ := List.cons.inj h
    rw [rowAt_cb, rowAt_cb, Option.map_some, Option.map_some, cbRow_tier2Row, cbRow_tier2Row]
    exact ⟨rfl, rfl⟩
  · rw [bytesExamined_ed] at h
    simp only [Window.bytes, List.length_cons, List.length_nil, List.take_succ_cons, List.take_zero, List.cons.injEq, and_true] at h
    obtain ⟨rfl, rfl⟩ := h
    rw [rowAt_ed, rowAt_ed, (edRow_rowOfOpcode c1 c2 c3).map_tier2Row, (edRow_rowOfOpcode c1 b2 b3).map_tier2Row]
    exact ⟨rfl, rfl⟩
  · rw [bytesExamined_indexed] at h
    split at h
    · rw [Window.eq_of_bytes h]
      exact ⟨rfl, rfl⟩
    · next hb1 =>
      simp only [Window.bytes, List.length_cons, List.length_nil, List.take_succ_cons, List.take_zero, List.cons.injEq, and_true] at h
      obtain ⟨rfl, rfl⟩ := h
      rw [bytesExamined_indexed, bytesExamined_indexed, rowAt_xy x _ _ hb1, rowAt_xy x _ _ hb1,
        (xyRow_rowOfOpcode x c1 c2 c3).map_tier2Row, (xyRow_rowOfOpcode x c1 b2 b3).map_tier2Row, if_neg hb1, if_neg hb1]
      exact ⟨rfl, rfl⟩
  · rw [bytesExamined_base _ _ _ hb0] at h
    obtain ⟨rfl, -⟩ := List.cons.inj h
    rw [bytesExamined_base _ _ _ hb0, bytesExamined_base _ _ _ hb0, rowAt_base _ _ _ hb0, rowAt_base _ _ _ hb0,
      (baseRow_rowOfOpcode c0 c1 c2).map_tier2Row, (baseRow_rowOfOpcode c0 b1 b2).map_tier2Row]
    exact ⟨rfl, rfl⟩

/-- The gate looks at the tier-2 row alone. -/
theorem decode_unknown_congr {impl2 : List Tier2Row} {w v : Window} {bytes : List Byte} (hb : bytesExamined v = bytesExamined w)
    (ht : (rowAt v).map Instr.tier2Row = (rowAt w).map Instr.tier2Row) (h : decode impl2 w = .unknown bytes) :
    decode impl2 v = .unknown bytes := by
  obtain ⟨rfl, hgate⟩ := (decode_unknown_iff _ _ _).1 h
  refine (decode_unknown_iff _ _ _).2 ⟨hb.symm, fun i hi => ?_⟩
  rw [hi, Option.map_some] at ht
  obtain ⟨j, hj, hij⟩ := Option.map_eq_some_iff.1 ht.symm
  rw [Instr.wellFormed, ← hij]
  exact hgate j hj

end Sys2Proof

namespace Sys2Proof.Machine

theorem disassemble_of_row {impl2 : List Tier2Row} {w : Window} {i : Instr} (h : decode impl2 w = .row i) :
    disassemble impl2 w = (instrText i, i.length) := by
  rw [disassemble, h]

theorem disassemble_of_unknown {impl2 : List Tier2Row} {w : Window} {bytes : List Byte} (h : decode impl2 w = .unknown bytes) :
    disassemble impl2 w = (placeholderText bytes, bytes.length) := by
  rw [disassemble, h]

theorem disassemble_length_bounds (impl2 : List Tier2Row) (w : Window) :
    1 ≤ (disassemble impl2 w).2 ∧ (disassemble impl2 w).2 ≤ 4 := by
  cases h : decode impl2 w with
  | row i =>
    rw [disassemble_of_row h]
    exact ⟨i.length_pos, i.length_le_four⟩
  | unknown bytes =>
    obtain ⟨rfl, -⟩ := (decode_unknown_iff _ _ _).1 h
    rw [disassemble_of_unknown h]
    have hlen := bytesExamined_length w
    simp only [List.mem_cons, List.not_mem_nil, or_false] at hlen
    dsimp only
    omega

/-- The decoder, and so the disassembler, looks at no byte past the reported length (R399). -/
theorem decode_eq_of_take {impl2 : List Tier2Row} {w v : Window}
    (h : v.bytes.take (disassemble impl2 w).2 = w.bytes.take (disassemble impl2 w).2) : decode impl2 v = decode impl2 w := by
  cases hw : decode impl2 w with
  | row i =>
    obtain ⟨hrow, hwf⟩ := (decode_row_iff _ _ _).1 hw
    rw [disassemble_of_row hw, ← encode_eq_take_of_rowAt hrow] at h
    exact (decode_row_iff _ _ _).2 ⟨rowAt_of_encode_begins (h ▸ List.take_prefix _ _), hwf⟩
  | unknown bytes =>
    obtain ⟨rfl, -⟩ := (decode_unknown_iff _ _ _).1 hw
    rw [disassemble_of_unknown hw] at h
    obtain ⟨hb, ht⟩ := lookup_of_bytesExamined h
    exact decode_unknown_congr hb ht hw

end Sys2Proof.Machine

open Sys2Proof Sys2Proof.Machine

/-- Settles O1: each word is looked up. -/
theorem writtenWordsDecode : Obligations.WrittenWordsDecode := by
  unfold Obligations.WrittenWordsDecode
  decide

/-- Settles O4: a table that every byte has a row in fails only at the gate, and the first byte names the table. -/
theorem unknownReportsBytesExamined : Obligations.UnknownReportsBytesExamined := by
  rintro impl2 ⟨b0, b1, b2, b3⟩ bytes h
  obtain ⟨rfl, hgate⟩ := (decode_unknown_iff _ _ _).1 h
  rcases leadIn_cases b0 with rfl | rfl | ⟨x, rfl⟩ | hb0
  · have hwf := hgate _ (rowAt_cb b1 b2 b3)
    rw [wellFormed_of_tier2Row_none (cbRow_tier2Row b1)] at hwf
    cases hwf
  · exact .inr (.inl ⟨bytesExamined_ed b1 b2 b3, .inl rfl⟩)
  · have hx : indexByte x = 0xDD ∨ indexByte x = 0xFD := by cases x <;> decide
    by_cases hb1 : b1 = 0xCB
    · subst hb1
      refine .inr (.inr ⟨bytesExamined_indexed x 0xCB b2 b3, hx, rfl, fun hz => ?_⟩)
      have hrow := xycbRow_map_tier2Row x b2 b3
      rw [if_pos ((opZ_eq_six_iff b3).2 hz)] at hrow
      obtain ⟨i, hi, htier⟩ := Option.map_eq_some_iff.1 hrow
      have hwf := hgate i ((rowAt_xycb x b2 b3).trans hi)
      rw [wellFormed_of_tier2Row_none htier] at hwf
      cases hwf
    · exact .inr (.inl ⟨(bytesExamined_indexed x b1 b2 b3).trans (if_neg hb1), .inr ⟨hx, hb1⟩⟩)
  · obtain ⟨i, hi⟩ := exists_baseRow b1 b2 hb0
    obtain ⟨row, hrow, himpl⟩ := tier2Row_of_not_wellFormed (hgate i ((rowAt_base b1 b2 b3 hb0).trans hi))
    have hlead : b0 ∉ [0xCB, 0xDD, 0xED, 0xFD] := fun hm => hb0 (by revert hm; simp only [leadIns, List.mem_cons]; tauto)
    exact .inl ⟨bytesExamined_base b1 b2 b3 hb0, hlead, i, row, hi, hrow, himpl⟩

/-- Settles O5: none of these bytes has a row, so no gate can let one in. -/
theorem tierThreeNeverDecodes : Obligations.TierThreeNeverDecodes := by
  rintro impl2 ⟨b0, b1, b2, b3⟩
  refine ⟨?_, ?_, ?_⟩
  · rintro rfl hb1
    dsimp only at hb1
    rw [decode_of_rowAt_none, bytesExamined_ed]
    rw [rowAt_ed, (edRow_rowOfOpcode b1 b2 b3).eq_none_iff]
    revert b1
    decide
  · rintro hb0 hb1
    dsimp only at hb1
    obtain ⟨x, rfl⟩ : ∃ x, b0 = indexByte x := hb0.elim (fun h => ⟨.ix, h⟩) (fun h => ⟨.iy, h⟩)
    have hcb : b1 ≠ 0xCB := by rintro rfl; exact hb1 (by decide)
    rw [decode_of_rowAt_none, bytesExamined_indexed, if_neg hcb]
    rw [rowAt_xy x b2 b3 hcb, xyRow_eq_none x b2 b3 hb1]
  · rintro hb0 rfl hb3
    obtain ⟨x, rfl⟩ : ∃ x, b0 = indexByte x := hb0.elim (fun h => ⟨.ix, h⟩) (fun h => ⟨.iy, h⟩)
    rw [decode_of_rowAt_none, bytesExamined_indexed, if_pos rfl]
    rw [rowAt_xycb, xycbRow_eq_none x b2 hb3]

/-- Settles O7: a row is selected by its own bytes and an unknown window by the bytes examined, and these are what is reported. -/
theorem disassemblyReadsOnlyItsLength : Obligations.DisassemblyReadsOnlyItsLength := by
  intro impl2 w v
  obtain ⟨hmin, hmax⟩ := disassemble_length_bounds impl2 w
  exact ⟨hmin, hmax, fun h => by rw [disassemble, decode_eq_of_take h]; rfl⟩

/-- Settles O8: the placeholder follows the number of bytes examined and whether the first is `ED`, which the table fixes. -/
theorem placeholderOfEachTable : Obligations.PlaceholderOfEachTable := by
  intro impl2 w bytes h
  rw [disassemble_of_unknown h]
  obtain ⟨rfl, -⟩ := (decode_unknown_iff _ _ _).1 h
  unfold bytesExamined
  split
  · next hed => exact congrArg (fun text => (text, 2)) (if_pos hed)
  · next hed =>
    split
    · split
      · rfl
      · exact congrArg (fun text => (text, 2)) (if_neg hed)
    · rfl

end

section
/-! PROOFS. What every instruction keeps and what it touches (10_state.md, 20_memory.md R50 to R60), each said once over the instructions: the
fields that none writes, the stores to Memory, the device call, the flags. -/

namespace Sys2Proof.Machine

/-- Every instruction has a next state (60_exceptions.md R413). -/
theorem exec_completes (i : Instr) (s : State) : ∃ t, exec i s = .next t := by
  cases i <;> exact ⟨_, rfl⟩

/-! ## The fields no instruction writes -/

/-- The fields that no instruction writes: IR, the parameters and the fault record (R29, R35, R37). -/
def State.fixed (s : State) : Word × Params × Option FaultRecord := (s.ir, s.params, s.fault)

theorem exec_keeps_fixed {i : Instr} {s t : State} (h : exec i s = .next t) : t.fixed = s.fixed := by
  cases i
  case jpCcNN | jrCcE | callCcNN | retCc | djnz => cases h; split <;> rfl
  all_goals cases h; simp [State.fixed, accAdd, accAdc, accSub, accSbc, accAnd, accXor, accOr, accCp, rotAcc]

/-! ## Memory -/

/-- Memory after some byte stores, all of them to addresses of the list. -/
inductive Stored (addresses : List Word) (m : Memory) : Memory → Prop where
  | none : Stored addresses m m
  | store {m' : Memory} (a : Word) (v : Byte) : Stored addresses m m' → a ∈ addresses → Stored addresses m (memWrite m' a.toNat v)

section
variable {addresses : List Word} {m m' : Memory}

theorem Stored.of_eq (h : m' = m) : Stored addresses m m' := h ▸ .none

theorem Stored.memWf (h : Stored addresses m m') (hm : memWf m = true) : memWf m' = true := by
  induction h with
  | none => exact hm
  | store a v _ _ ih => exact memWf_memWrite _ _ _ a.isLt ih

theorem Stored.memRead_other (h : Stored addresses m m') {b : Word} (hb : b ∉ addresses) : memRead m' b.toNat = memRead m b.toNat := by
  induction h with
  | none => rfl
  | store a v _ ha ih =>
    have hne : b.toNat ≠ a.toNat := fun e => hb (BitVec.eq_of_toNat_eq e ▸ ha)
    rw [memRead_memWrite_other _ _ hne, ih]

end

theorem stored_write8 (a : Word) (v : Byte) (s : State) : Stored [a] s.mem (write8 a v s).mem :=
  .store a v .none (List.mem_singleton.2 rfl)

theorem stored_write16 (a v : Word) (s : State) : Stored [a, a + 1] s.mem (write16 a v s).mem :=
  .store _ _ (.store _ _ .none (by simp)) (by simp)

theorem stored_push16 (v : Word) (s : State) : Stored [s.sp - 1, s.sp - 2] s.mem (push16 v s).mem := by
  have hlow : s.sp - 1 - 1 = s.sp - 2 := by bv_omega
  exact .store _ _ (.store _ _ .none (by simp)) (List.mem_cons_of_mem _ (List.mem_singleton.2 hlow))

/-- The stores of every instruction. -/
theorem exec_stores {i : Instr} {s t : State} (h : exec i s = .next t) : Stored (storedAt s i) s.mem t.mem := by
  cases i
  -- one byte
  case ldHLR | ldHLN | ldXYdR | ldXYdN | ldBCA | ldDEA | ldMemA => cases h; exact stored_write8 _ _ _
  case incHL | decHL | incXYd | decXYd | rrd | rld => cases h; exact stored_write8 _ _ _
  case rlcHL | rrcHL | rlHL | rrHL | slaHL | sraHL | sllHL | srlHL => cases h; exact stored_write8 _ _ _
  case rlcXYd | rrcXYd | rlXYd | rrXYd | slaXYd | sraXYd | sllXYd | srlXYd => cases h; exact stored_write8 _ _ _
  case resHL | setHL | resXYd | setXYd | ldi | ldd => cases h; exact stored_write8 _ _ _
  case ldir | lddr => cases h; rw [repeatIf_mem]; exact stored_write8 _ _ _
  case ini | ind => cases h; exact afterPortIn_mem (reg8 s .c) s ▸ stored_write8 _ _ _
  case inir | indr => cases h; rw [repeatIf_mem]; exact afterPortIn_mem (reg8 s .c) s ▸ stored_write8 _ _ _
  -- a word
  case exSPHL | ldMemDd | ldMemHL | ldMemXY => cases h; exact stored_write16 _ _ _
  case exSPXY x => cases h; cases x <;> exact stored_write16 _ _ _
  -- a push
  case push | pushXY | callNN | rst => cases h; exact stored_push16 _ _
  case callCcNN cc nn =>
    cases h
    rw [storedAt]
    split
    · exact stored_push16 _ _
    · exact .none
  -- nothing
  case jpCcNN | jrCcE | retCc | djnz => cases h; exact .of_eq (by split <;> rfl)
  all_goals cases h; exact .of_eq (by simp [accAdd, accAdc, accSub, accSbc, accAnd, accXor, accOr, accCp, rotAcc])

/-! ## The fields only exchanges and EI, DI reach -/

/-- IFF and the shadow registers: the fields that no instruction reads but the exchanges, and that only these, EI and DI write. -/
structure Hidden where
  iff : Bool
  aAlt : Byte
  fAlt : Flags
  bcAlt : Word
  deAlt : Word
  hlAlt : Word

def State.hidden (s : State) : Hidden := ⟨s.iff, s.aAlt, s.fAlt, s.bcAlt, s.deAlt, s.hlAlt⟩

def withHidden (v : Hidden) (s : State) : State :=
  { s with iff := v.iff, aAlt := v.aAlt, fAlt := v.fAlt, bcAlt := v.bcAlt, deAlt := v.deAlt, hlAlt := v.hlAlt }

section
variable (v : Hidden) (s : State)

theorem reg8_withHidden (r : Reg8) : reg8 (withHidden v s) r = reg8 s r := by cases r <;> rfl

theorem setReg8_withHidden (r : Reg8) (w : Byte) : setReg8 r w (withHidden v s) = withHidden v (setReg8 r w s) := by cases r <;> rfl

theorem afterPortIn_withHidden (port : Byte) : afterPortIn port (withHidden v s) = withHidden v (afterPortIn port s) := by
  unfold afterPortIn
  rw [show deviceAt (withHidden v s) port = deviceAt s port from rfl]
  split <;> rfl

theorem portOut_withHidden (port w : Byte) : portOut port w (withHidden v s) = withHidden v (portOut port w s) := by
  unfold portOut
  rw [show deviceAt (withHidden v s) port = deviceAt s port from rfl]
  split <;> rfl

theorem repeatIf_withHidden (more : Bool) : repeatIf more (withHidden v s) = withHidden v (repeatIf more s) := by
  cases more <;> rfl

theorem blockIn_withHidden (delta : Word) : blockIn delta (withHidden v s) = withHidden v (blockIn delta s) := by
  simp only [blockIn, reg8_withHidden, afterPortIn_withHidden]
  rfl

theorem blockOut_withHidden (delta : Word) : blockOut delta (withHidden v s) = withHidden v (blockOut delta s) := by
  simp only [blockOut, reg8_withHidden, setReg8_withHidden, portOut_withHidden]
  rfl

end

/-- Another IFF and other shadow registers make no difference to an instruction that is not an exchange, EI or DI: it does the same and
leaves them. -/
theorem exec_withHidden {i : Instr} {s t : State} (v : Hidden) (hi : i ∉ [Instr.ei, .di, .exAFAF, .exx]) (h : exec i s = .next t) :
    exec i (withHidden v s) = .next (withHidden v t) := by
  cases i
  case ei | di | exAFAF | exx => exact absurd (by decide) hi
  all_goals cases h
  -- operands that name a register
  case ldRR dst src => cases dst <;> cases src <;> rfl
  case ldRHL r | ldRN r _ | ldRXYd _ r _ | incR r | decR r | resR _ r | setR _ r => cases r <;> rfl
  case rlcR r | rrcR r | rlR r | rrR r | slaR r | sraR r | sllR r | srlR r => cases r <;> rfl
  case ldDdNN p _ | ldDdMem p _ | incSS p | decSS p => cases p <;> rfl
  case pop q => cases q <;> rfl
  case incXY x | decXY x | ldXYNN x _ | ldXYMem x _ | popXY x | exSPXY x => cases x <;> rfl
  case addXY x p => cases x <;> cases p <;> rfl
  -- a condition
  case jpCcNN | jrCcE | callCcNN | retCc | djnz => rw [apply_ite (withHidden v)]; rfl
  case ldir | lddr | cpir | cpdr => rw [← repeatIf_withHidden]; rfl
  -- a port
  case inAN n => exact congrArg (fun u => Host.Outcome.next { u with a := portIn s n }) (afterPortIn_withHidden v s n)
  case inRC r =>
    simp only [exec, execInRC, reg8_withHidden, afterPortIn_withHidden, setReg8_withHidden]
    rfl
  case outNA => rw [← portOut_withHidden]; rfl
  case outCR r => rw [← portOut_withHidden, ← reg8_withHidden v s r]; rfl
  case ini | ind => rw [← blockIn_withHidden]; rfl
  case outi | outd => rw [← blockOut_withHidden]; rfl
  case inir | indr => rw [← repeatIf_withHidden, ← blockIn_withHidden]; rfl
  case otir | otdr => rw [← repeatIf_withHidden, ← blockOut_withHidden]; rfl
  all_goals rfl

theorem exec_keeps_hidden {i : Instr} {s t : State} (hi : i ∉ [Instr.ei, .di, .exAFAF, .exx]) (h : exec i s = .next t) :
    t.hidden = s.hidden := by
  have hsame : exec i s = .next (withHidden s.hidden t) := exec_withHidden s.hidden hi h
  rw [h] at hsame
  rw [Host.Outcome.next.inj hsame]
  rfl

/-- The interrupt entry clears IFF exactly under the parameter (60_exceptions.md R417). -/
theorem takeInterrupt_iff (s : State) (hs : s.iff = true) : (takeInterrupt s).iff = !s.params.irqEntryClearsIff := by
  change (if s.params.irqEntryClearsIff then false else s.iff) = _
  rw [hs]
  cases s.params.irqEntryClearsIff <;> rfl

/-! ## Ports -/

/-- One call of `ioRead` or `ioWrite` on the port, as far as the device table and the latch go. -/
def PortAccess (s t : State) (port : Byte) : Prop := ∃ v, PortRead s t port v ∨ PortWrite s t port v

section
variable {s t u : State} {port v : Byte}

theorem PortRead.congr (h : PortRead s t port v) (hslots : u.slots = t.slots) (hirq : u.irqPending = t.irqPending) :
    PortRead s u port v := by
  unfold PortRead at h ⊢
  rw [hslots, hirq]
  exact h

theorem PortWrite.congr (h : PortWrite s t port v) (hslots : u.slots = t.slots) (hirq : u.irqPending = t.irqPending) :
    PortWrite s u port v := by
  unfold PortWrite at h ⊢
  rw [hslots, hirq]
  exact h

/-- An access to a port whose slot is empty does nothing. -/
theorem PortAccess.of_empty (h : PortAccess s t port) (hd : s.slots.get (slotNumber port) = none) :
    t.slots = s.slots ∧ t.irqPending = s.irqPending := by
  obtain ⟨v, h | h⟩ := h
  · rw [PortRead, hd] at h
    exact h.2
  · rw [PortWrite, hd] at h
    exact h

/-- An access to a port whose slot is bound is one call of its device, which may raise the request. -/
theorem PortAccess.of_bound (h : PortAccess s t port) {d : Device} (hd : s.slots.get (slotNumber port) = some d) :
    (∃ raised, t.irqPending = (s.irqPending || raised)) ∧
      (∃ call, t.slots.get (slotNumber port) = some ⟨d.script.tail, call :: d.calls⟩) ∧
      ∀ k, k ≠ slotNumber port → t.slots.get k = s.slots.get k := by
  obtain ⟨v, h | h⟩ := h
  · rw [PortRead, hd] at h
    obtain ⟨raised, -, hirq, hcall, hother⟩ := h
    exact ⟨⟨raised, hirq⟩, ⟨_, hcall⟩, hother⟩
  · rw [PortWrite, hd] at h
    obtain ⟨raised, -, hirq, hcall, hother⟩ := h
    exact ⟨⟨raised, hirq⟩, ⟨_, hcall⟩, hother⟩

theorem PortAccess.slots_other (h : PortAccess s t port) {k : Fin 16} (hk : k ≠ slotNumber port) : t.slots.get k = s.slots.get k := by
  cases hd : s.slots.get (slotNumber port) with
  | none => rw [(h.of_empty hd).1]
  | some d =>
    obtain ⟨-, -, hother⟩ := h.of_bound hd
    exact hother k hk

theorem PortAccess.keeps_request (h : PortAccess s t port) (hs : s.irqPending = true) : t.irqPending = true := by
  cases hd : s.slots.get (slotNumber port) with
  | none => rw [(h.of_empty hd).2, hs]
  | some d =>
    obtain ⟨⟨raised, hirq⟩, -⟩ := h.of_bound hd
    rw [hirq, hs, Bool.true_or]

theorem PortAccess.slots_isSome (h : PortAccess s t port) (k : Fin 16) : (t.slots.get k).isSome = (s.slots.get k).isSome := by
  by_cases hk : k = slotNumber port
  · subst hk
    cases hd : s.slots.get (slotNumber port) with
    | none => rw [(h.of_empty hd).1, hd]
    | some d =>
      obtain ⟨-, ⟨call, hcall⟩, -⟩ := h.of_bound hd
      rw [hcall]
      rfl
  · rw [h.slots_other hk]

end

/-- An instruction without a port leaves the devices alone (R57). -/
theorem exec_keeps_devices {i : Instr} {s t : State} (hp : portOf s i = none) (h : exec i s = .next t) :
    t.slots = s.slots ∧ t.irqPending = s.irqPending := by
  cases i
  case inAN | outNA | inRC | outCR => cases hp
  case ini | ind | inir | indr | outi | outd | otir | otdr => cases hp
  case jpCcNN | jrCcE | callCcNN | retCc | djnz => cases h; split <;> exact ⟨rfl, rfl⟩
  all_goals cases h; simp [accAdd, accAdc, accSub, accSbc, accAnd, accXor, accOr, accCp, rotAcc]

/-- The device part of INI and IND. -/
theorem portRead_blockIn (delta : Word) (s : State) : PortRead s (blockIn delta s) (reg8 s .c) (portIn s (reg8 s .c)) :=
  portRead_afterPortIn (reg8 s .c) s

/-- The device part of OUTI and OUTD: that B counts down before the write does not touch the port, which is C. -/
theorem portWrite_blockOut (delta : Word) (s : State) : PortWrite s (blockOut delta s) (reg8 s .c) (read8 s s.hl) := by
  have hc : reg8 (setReg8 .b (reg8 s .b - 1) s) .c = reg8 s .c := reg8_setReg8_other (by decide) _ _
  have h := portWrite_portOut (reg8 (setReg8 .b (reg8 s .b - 1) s) .c) (read8 s s.hl) (setReg8 .b (reg8 s .b - 1) s)
  rw [hc] at h
  exact h.congr (by rw [← hc]; rfl) (by rw [← hc]; rfl)

/-- An instruction with a port makes one access to it. -/
theorem exec_portAccess {i : Instr} {s t : State} {port : Byte} (hp : portOf s i = some port) (h : exec i s = .next t) :
    PortAccess s t port := by
  cases i <;> cases hp <;> cases h
  case inAN => exact ⟨_, .inl (portRead_afterPortIn port s)⟩
  case inRC => exact ⟨_, .inl ((portRead_afterPortIn _ s).congr (by simp) (by simp))⟩
  case outNA | outCR => exact ⟨_, .inr (portWrite_portOut _ _ s)⟩
  case ini | ind => exact ⟨_, .inl (portRead_blockIn _ s)⟩
  case inir | indr => exact ⟨_, .inl ((portRead_blockIn _ s).congr (repeatIf_slots _ _) (repeatIf_irqPending _ _))⟩
  case outi | outd => exact ⟨_, .inr (portWrite_blockOut _ s)⟩
  case otir | otdr => exact ⟨_, .inr ((portWrite_blockOut _ s).congr (repeatIf_slots _ _) (repeatIf_irqPending _ _))⟩

/-! ## Flags -/

/-- An instruction that computes no flags draws no bit (R28). -/
theorem exec_keeps_draws {i : Instr} {s t : State} (hc : computesF i = false) (h : exec i s = .next t) : t.draws = s.draws := by
  cases i <;> cases hc <;> cases h
  case jpCcNN | jrCcE | callCcNN | retCc | djnz => split <;> rfl
  all_goals simp

theorem exec_keeps_f {i : Instr} {s t : State} (hc : computesF i = false) (hpop : i ≠ .pop .af) (hex : i ≠ .exAFAF)
    (h : exec i s = .next t) : t.f = s.f := by
  cases i <;> cases hc <;> cases h
  case pop q =>
    cases q with
    | af => exact absurd rfl hpop
    | bc | de | hl => rfl
  case exAFAF => exact absurd rfl hex
  case jpCcNN | jrCcE | callCcNN | retCc | djnz => split <;> rfl
  all_goals simp

end Sys2Proof.Machine

open Sys2Proof Sys2Proof.Machine

/-- Settles O24: no draw and no new F without a computed flag. -/
theorem flagWriters : Obligations.FlagWriters :=
  fun _ _ _ h hc => ⟨exec_keeps_draws hc h, fun hpop hex => exec_keeps_f hc hpop hex h⟩

/-- Settles O25: every instruction changes Memory by stores to its own addresses only. -/
theorem memoryFrame : Obligations.MemoryFrame :=
  fun _ _ _ _ h hb => (exec_stores h).memRead_other hb

/-- Settles O26: an instruction makes no device call without a port and one access to its port with one. -/
theorem oneDeviceCallPerPortInstruction : Obligations.OneDeviceCallPerPortInstruction := by
  intro i s t h
  split
  · next hp => exact exec_keeps_devices hp h
  · next port hp =>
    have hacc := exec_portAccess hp h
    exact ⟨fun k hk => hacc.slots_other hk, hacc.of_empty, fun d hd => (hacc.of_bound hd).2.1⟩

/-- Settles O21: EI and DI apart, every instruction either passes IFF by or is an exchange, which leaves it. -/
theorem interruptEnableFlag : Obligations.InterruptEnableFlag := by
  refine ⟨rfl, fun s => ⟨⟨_, rfl, rfl⟩, ⟨_, rfl, rfl⟩, rfl⟩, fun i s t b hei hdi h => ?_, takeInterrupt_iff⟩
  by_cases hex : i = .exAFAF ∨ i = .exx
  · rcases hex with rfl | rfl <;> cases h <;> exact ⟨rfl, rfl⟩
  · have hi : i ∉ [Instr.ei, .di, .exAFAF, .exx] := by simp only [List.mem_cons, List.not_mem_nil]; tauto
    have hkept := exec_keeps_hidden hi h
    refine ⟨congrArg Hidden.iff hkept, (exec_withHidden { s.hidden with iff := b } hi h).trans ?_⟩
    rw [← hkept]; rfl

/-- Settles O22: the two exchanges apart, every instruction either passes the shadow registers by or is EI or DI, which leave them. -/
theorem shadowRegistersOnlyExchanged : Obligations.ShadowRegistersOnlyExchanged := by
  refine ⟨fun s => ⟨_, rfl, rfl⟩, fun s => ⟨_, rfl, rfl⟩, fun i s t a f hAF h => ?_, fun i s t x y z hexx h => ?_, fun s => ?_⟩
  · by_cases hex : i = .ei ∨ i = .di ∨ i = .exx
    · rcases hex with rfl | rfl | rfl <;> cases h <;> exact ⟨rfl, rfl, rfl⟩
    · have hi : i ∉ [Instr.ei, .di, .exAFAF, .exx] := by simp only [List.mem_cons, List.not_mem_nil]; tauto
      have hkept := exec_keeps_hidden hi h
      refine ⟨congrArg Hidden.aAlt hkept, congrArg Hidden.fAlt hkept,
        (exec_withHidden { s.hidden with aAlt := a, fAlt := f } hi h).trans ?_⟩
      rw [← hkept]; rfl
  · by_cases hex : i = .ei ∨ i = .di ∨ i = .exAFAF
    · rcases hex with rfl | rfl | rfl <;> cases h <;> exact ⟨rfl, rfl, rfl, rfl⟩
    · have hi : i ∉ [Instr.ei, .di, .exAFAF, .exx] := by simp only [List.mem_cons, List.not_mem_nil]; tauto
      have hkept := exec_keeps_hidden hi h
      refine ⟨congrArg Hidden.bcAlt hkept, congrArg Hidden.deAlt hkept, congrArg Hidden.hlAlt hkept,
        (exec_withHidden { s.hidden with bcAlt := x, deAlt := y, hlAlt := z } hi h).trans ?_⟩
      rw [← hkept]; rfl
  · exact ⟨join_eq _ _, rfl, rfl, rfl, join_eq _ _, rfl, rfl, rfl⟩

end

section
/-! PROOFS. The step (30_encoding.md R80, R88, R102), the interrupt entry (60_exceptions.md section 3), and what a step keeps. -/

namespace Sys2Proof.Machine

/-! ## The fetch of bytes without a row -/

/-- Bytes the gate keeps out are kept out when they are looked up with blank operand bytes. -/
theorem operandCount_of_not_wellFormed {seen : List Byte} {o1 o2 : Byte} {found blank : Option Instr} {impl2 : List Tier2Row}
    (h : RowOfOpcode seen o1 o2 found blank) (hgate : ∀ i, found = some i → i.wellFormed impl2 = false) (n : Nat) :
    operandCount impl2 n blank = 0 := by
  cases blank with
  | none => rfl
  | some j =>
    obtain ⟨i, hi, htier⟩ := Option.map_eq_some_iff.1 h.map_tier2Row
    have hj : j.wellFormed impl2 = false := by rw [Instr.wellFormed, ← htier]; exact hgate i hi
    rw [operandCount, hj]
    rfl

theorem bytesExamined_eq_take (w : Window) : bytesExamined w = w.bytes.take (bytesExamined w).length := by
  obtain ⟨b0, b1, b2, b3⟩ := w
  unfold bytesExamined
  split
  · rfl
  · split
    · split <;> rfl
    · rfl

section
variable {s : State} {bytes : List Byte}

/-- Where no row is found the dispatcher stops fetching at the bytes it reports (R88). -/
theorem fetchInstr_of_unknown (h : decode s.params.impl2 (windowAt s s.pc) = .unknown bytes) :
    fetchInstr s = fetchMore bytes.length ([], s) := by
  obtain ⟨rfl, hgate⟩ := (decode_unknown_iff _ _ _).1 h
  rcases leadIn_cases (read8 s s.pc) with h0 | h0 | ⟨x, h0⟩ | h0 <;> simp only [windowAt] at hgate ⊢
  · have hwf := hgate _ (h0 ▸ rowAt_cb _ _ _)
    rw [wellFormed_of_tier2Row_none (cbRow_tier2Row _)] at hwf
    cases hwf
  · rw [h0, rowAt_ed] at hgate
    rw [fetchInstr_ed h0, h0, bytesExamined_ed, operandCount_of_not_wellFormed (edRow_rowOfOpcode _ _ _) hgate]
    rfl
  · rw [fetchInstr_indexed h0, h0, bytesExamined_indexed]
    split
    · rfl
    · next h1 =>
      rw [h0, rowAt_xy x _ _ h1] at hgate
      rw [operandCount_of_not_wellFormed (xyRow_rowOfOpcode x _ _ _) hgate]
      rfl
  · rw [rowAt_base _ _ _ h0] at hgate
    rw [fetchInstr_base h0, bytesExamined_base _ _ _ h0, operandCount_of_not_wellFormed (baseRow_rowOfOpcode _ _ _) hgate]
    rfl

theorem fetchInstr_eq_unknown (h : decode s.params.impl2 (windowAt s s.pc) = .unknown bytes) :
    fetchInstr s = (bytes, advance bytes.length s) := by
  rw [fetchInstr_of_unknown h]
  obtain ⟨rfl, -⟩ := (decode_unknown_iff _ _ _).1 h
  have hlen := bytesExamined_length (windowAt s s.pc)
  simp only [List.mem_cons, List.not_mem_nil, or_false] at hlen
  rw [fetchMore_eq_take (by omega), ← bytesExamined_eq_take]

/-! ## The step -/

theorem step_of_unknown (hf : s.fault = none) (hd : ¬(s.irqPending = true ∧ s.iff = true)) (hr : s.run = .running)
    (h : decode s.params.impl2 (windowAt s s.pc) = .unknown bytes) : step s = .fault (.unknownInstruction bytes s.pc) := by
  simp [step, cycle, executeCycle, fetchAndRun, raiseUnknown, hf, hr, interruptDue_eq_false hd, h]

theorem step_of_due (hf : s.fault = none) (hp : s.irqPending = true) (hi : s.iff = true) : step s = .next (takeInterrupt s) := by
  simp [step, cycle, executeCycle, interruptDue, hf, hp, hi]

end

/-- A step of an engine that is not faulted completes or raises `UnknownInstruction` at PC (60_exceptions.md R413). -/
theorem step_completes_or_unknown {s : State} (hf : s.fault = none) :
    (∃ t, step s = .next t) ∨ ∃ bytes, step s = .fault (.unknownInstruction bytes s.pc) := by
  by_cases hd : s.irqPending = true ∧ s.iff = true
  · exact .inl ⟨_, step_of_due hf hd.1 hd.2⟩
  · cases hr : s.run with
    | halted => exact .inl ⟨s, step_of_halted hf hr hd⟩
    | running =>
      cases hdec : decode s.params.impl2 (windowAt s s.pc) with
      | row i => exact .inl ((step_of_row hf hd hr hdec).symm ▸ exec_completes i _)
      | unknown bytes => exact .inr ⟨bytes, step_of_unknown hf hd hr hdec⟩

/-! ## The interrupt entry and the return from it -/

theorem wordStored_takeInterrupt (s : State) : WordStored s (takeInterrupt s) (s.sp - 2) s.pc := wordStored_push16 s.pc s

theorem takeInterrupt_eq {s : State} (hi : s.iff = true) :
    takeInterrupt s = { s with
      irqPending := false, sp := s.sp - 2, mem := (takeInterrupt s).mem, pc := 0x0038, run := .running
      iff := !s.params.irqEntryClearsIff } := by
  rw [← takeInterrupt_iff s hi, ← push16_sp s.pc s]
  rfl

/-- A RET alone at the handler's address is decoded there, whatever follows it. -/
theorem decode_ret {s : State} {a : Word} (h : read8 s a = 0xC9) (impl2 : List Tier2Row) : decode impl2 (windowAt s a) = .row .ret := by
  have hbytes : encode .ret <+: (windowAt s a).bytes :=
    ⟨[read8 s (a + 1), read8 s (a + 2), read8 s (a + 3)], by rw [windowAt, h]; rfl⟩
  exact (decode_row_iff _ _ _).2 ⟨rowAt_of_encode_begins hbytes, rfl⟩

theorem exec_ret (s : State) : exec .ret s = .next { s with pc := wordAt s s.sp, sp := s.sp + 2 } := by
  rw [← popped_eq]; rfl

/-! ## What a step keeps -/

section
variable {s t : State}

theorem step_keeps_fixed (h : step s = .next t) : t.fixed = s.fixed := by
  obtain ⟨-, ⟨-, -, rfl⟩ | ⟨-, -, rfl⟩ | ⟨-, -, i, -, hi⟩⟩ := step_cases h
  · rfl
  · rfl
  · exact (exec_keeps_fixed hi).trans rfl

theorem step_keeps_memWf (h : step s = .next t) (hm : memWf s.mem = true) : memWf t.mem = true := by
  obtain ⟨-, ⟨-, -, rfl⟩ | ⟨-, -, rfl⟩ | ⟨-, -, i, -, hi⟩⟩ := step_cases h
  · exact memWf_push16 s.pc s hm
  · exact hm
  · exact (exec_stores hi).memWf hm

theorem step_keeps_bound (h : step s = .next t) (k : Fin 16) : (t.slots.get k).isSome = (s.slots.get k).isSome := by
  obtain ⟨-, ⟨-, -, rfl⟩ | ⟨-, -, rfl⟩ | ⟨-, -, i, -, hi⟩⟩ := step_cases h
  · rfl
  · rfl
  · cases hp : portOf (advance i.length s) i with
    | none => rw [(exec_keeps_devices hp hi).1]; rfl
    | some port => exact (exec_portAccess hp hi).slots_isSome k

/-- An instruction may raise a request and never drops one. -/
theorem exec_keeps_request {i : Instr} (h : exec i s = .next t) (hs : s.irqPending = true) : t.irqPending = true := by
  cases hp : portOf s i with
  | none => rw [(exec_keeps_devices hp h).2, hs]
  | some port => exact (exec_portAccess hp h).keeps_request hs

/-- A pending request is either still pending after a step or was taken by it. -/
theorem step_of_pending (h : step s = .next t) (hs : s.irqPending = true) :
    t.irqPending = true ∨ s.iff = true ∧ t.pc = interruptVector := by
  obtain ⟨-, ⟨-, hi, rfl⟩ | ⟨-, -, rfl⟩ | ⟨-, -, i, -, hi⟩⟩ := step_cases h
  · exact .inr ⟨hi, rfl⟩
  · exact .inl hs
  · exact .inl (exec_keeps_request hi hs)

theorem step_of_pending_masked (h : step s = .next t) (hs : s.irqPending = true) (hi : s.iff = false) : t.irqPending = true := by
  rcases step_of_pending h hs with ht | ⟨hiff, -⟩
  · exact ht
  · rw [hi] at hiff; cases hiff

theorem step_fault_none (h : step s = .next t) : t.fault = none := by
  have hf : t.fault = s.fault := congrArg (·.2.2) (step_keeps_fixed h)
  obtain ⟨hs, -⟩ := step_cases h
  rw [hf, hs]

end

end Sys2Proof.Machine

open Sys2Proof Sys2Proof.Machine

/-- Settles O11: the step decodes the window at PC and runs its row past the row's bytes. -/
theorem stepRunsDecodedInstruction : Obligations.StepRunsDecodedInstruction :=
  fun _ _ hf hd hr h => step_of_row hf hd hr h

/-- Settles O12: the fetch stops at the bytes reported, and the step raises the fault at their address. -/
theorem stepOnUnknownBytes : Obligations.StepOnUnknownBytes := by
  intro s bytes h
  rw [fetchInstr_eq_unknown h, disassembleAt, disassemble_of_unknown h]
  exact ⟨rfl, rfl, rfl, fun hf hd hr => step_of_unknown hf hd hr h⟩

/-- Settles O13: the step of an engine with an interrupt due is the entry, a push with a few fields set. -/
theorem interruptEntry : Obligations.InterruptEntry :=
  fun s hf hp hi => ⟨_, step_of_due hf hp hi, wordStored_takeInterrupt s, takeInterrupt_eq hi⟩

/-- Settles O14: the RET the entry arrives at pops the PC the entry pushed. -/
theorem interruptThenRet : Obligations.InterruptThenRet := by
  intro s hf hp hi hret hlow hhigh
  obtain ⟨-, -, hother⟩ := wordStored_takeInterrupt s
  have hbyte : read8 (takeInterrupt s) 0x0038 = 0xC9 := by
    rw [hother 0x0038 hlow.symm (by bv_omega), hret]
  have hsp : (takeInterrupt s).sp = s.sp - 2 := push16_sp s.pc s
  have hword : wordAt (takeInterrupt s) (takeInterrupt s).sp = s.pc := by
    rw [← read16_eq, hsp, read16_of_wordStored (wordStored_takeInterrupt s)]
  have hback : (takeInterrupt s).sp + 2 = s.sp := by rw [hsp, BitVec.sub_add_cancel]
  refine ⟨takeInterrupt s, { takeInterrupt s with pc := s.pc, sp := s.sp }, step_of_due hf hp hi, ?_, rfl, rfl, rfl, rfl⟩
  rw [← hword, ← hback]
  exact (step_of_row (s := takeInterrupt s) hf (fun h => Bool.false_ne_true h.1) rfl (decode_ret hbyte _)).trans (exec_ret _)

/-- Settles O16: the fetch is the only thing that can fail. -/
theorem noOtherFault : Obligations.NoOtherFault :=
  ⟨exec_completes, fun _ hf => step_completes_or_unknown hf⟩

/-- Settles O17: Memory changes by byte stores, each of which keeps the canonical form, and the fault record by none. -/
theorem stepKeepsInvariant : Obligations.StepKeepsInvariant :=
  fun _ _ hs h => ⟨step_keeps_memWf h hs.1, step_fault_none h⟩

/-- Settles O20: no instruction writes IR or a parameter, and a device call leaves its slot bound. -/
theorem stepKeepsConfiguration : Obligations.StepKeepsConfiguration :=
  fun _ _ h => ⟨congrArg (·.1) (step_keeps_fixed h), congrArg (·.2.1) (step_keeps_fixed h), step_keeps_bound h⟩

/-- Settles O23: of everything a step can do only the interrupt entry drops a request. -/
theorem requestWaitsUntilTaken : Obligations.RequestWaitsUntilTaken := by
  intro s t h hs
  refine ⟨step_of_pending_masked h hs, fun ht => ?_⟩
  rcases step_of_pending h hs with hpending | htaken
  · rw [ht] at hpending; cases hpending
  · exact htaken

end

section
/-! PROOFS. Memory (20_memory.md R51), the host's operations (70_reset_and_hazards.md, 60_exceptions.md R412) and the states they reach. -/

namespace Sys2Proof.Machine

/-! ## Loading -/

theorem read8_loadProgram_other (origin : Word) (bytes : List Byte) (s : State) {b : Word}
    (hb : ∀ k, k < bytes.length → b ≠ origin + BitVec.ofNat 16 k) : read8 (loadProgram origin bytes s) b = read8 s b := by
  induction bytes generalizing origin s with
  | nil => rfl
  | cons v rest ih =>
    have hfirst : b ≠ origin := by simpa using hb 0 (by simp)
    rw [loadProgram, ih (origin + 1) (write8 origin v s), read8_write8_other s v hfirst]
    intro k hk heq
    refine hb (k + 1) (by simpa using hk) ?_
    rw [heq, Nat.add_comm, BitVec.ofNat_add, ← BitVec.add_assoc]
    rfl

/-- A byte of a load is there unless one 65536 places or more behind it in the list takes its cell. -/
theorem read8_loadProgram (origin : Word) (bytes : List Byte) (s : State) {k : Nat} (h : k < bytes.length)
    (hlast : bytes.length ≤ k + 65536) : read8 (loadProgram origin bytes s) (origin + BitVec.ofNat 16 k) = bytes[k] := by
  induction bytes generalizing origin s k with
  | nil => cases h
  | cons v rest ih =>
    rw [loadProgram]
    cases k with
    | zero =>
      have hother : ∀ j, j < rest.length → origin + BitVec.ofNat 16 0 ≠ origin + 1 + BitVec.ofNat 16 j := by
        intro j hj
        simp only [List.length_cons] at hlast
        bv_omega
      rw [read8_loadProgram_other _ _ _ hother]
      simpa using read8_write8_same s origin v
    | succ k =>
      have haddr : origin + BitVec.ofNat 16 (k + 1) = origin + 1 + BitVec.ofNat 16 k := by
        rw [Nat.add_comm, BitVec.ofNat_add, ← BitVec.add_assoc]; rfl
      rw [haddr]
      simp only [List.length_cons] at h hlast
      exact ih _ _ (by omega) (by omega)

/-! ## Registration -/

theorem registerPeripheral_empty {slot : Nat} {s : State} (h : slot < 16) (he : s.slots[slot] = none) (d : Device) :
    registerPeripheral slot d s = some { s with slots := s.slots.set slot (some d) } := by
  rw [registerPeripheral, dif_pos h, he]

theorem registerPeripheral_taken {slot : Nat} {s : State} (h : slot < 16) (he : s.slots[slot] ≠ none) (d : Device) :
    registerPeripheral slot d s = none := by
  obtain ⟨d', hd⟩ := Option.ne_none_iff_exists'.1 he
  rw [registerPeripheral, dif_pos h, hd]

/-! ## Reset, construction, the reachable states -/

theorem Flags.zero_toByte : Flags.zero.toByte = 0x00 := by decide

theorem construct_inv (p : Params) : Inv (construct p) := ⟨rfl, rfl⟩

/-- What holds in every state a host can reach (R29, R37, R411). -/
structure ReachableFacts (p : Params) (s : State) : Prop where
  canonical : memWf s.mem = true
  ir : s.ir = 0
  params : s.params = p
  record : ∀ r, s.fault = some r → r.bytes.length ∈ [1, 2, 4]

section
variable {p : Params} {s t : State}

/-- An operation that keeps Memory canonical and the fields no instruction writes keeps all of them. -/
theorem ReachableFacts.of_fixed (h : ReachableFacts p s) (hfixed : t.fixed = s.fixed) (hm : memWf t.mem = true) : ReachableFacts p t := by
  obtain ⟨hir, hrest⟩ := Prod.mk.inj hfixed
  obtain ⟨hparams, hfault⟩ := Prod.mk.inj hrest
  exact ⟨hm, hir.trans h.ir, hparams.trans h.params, hfault ▸ h.record⟩

/-- `reset()` leaves no record, whatever Memory it leaves. -/
theorem ReachableFacts.of_reset (h : ReachableFacts p s) {m : Memory} (hm : memWf m = true) :
    ReachableFacts p { hostReset s with mem := m } :=
  ⟨hm, rfl, h.params, fun _ hr => by cases hr⟩

theorem reachableFacts (h : Reachable p s) : ReachableFacts p s := by
  induction h with
  | made => exact ⟨rfl, rfl, rfl, fun _ hr => by cases hr⟩
  | stepped s t _ hstep ih => exact ih.of_fixed (step_keeps_fixed hstep) (step_keeps_memWf hstep ih.canonical)
  | wasReset s _ ih => exact ih.of_reset ih.canonical
  | wasCleared s _ ih => exact ih.of_reset rfl
  | loaded s origin bytes _ ih =>
    exact ih.of_fixed (by rw [loadProgram_frame]; rfl) (memWf_loadProgram origin bytes s ih.canonical)
  | bound s t slot d _ hreg ih =>
    obtain ⟨_, -, rfl⟩ := registerPeripheral_cases hreg
    exact ih.of_fixed rfl ih.canonical
  | requested s _ ih => exact ih.of_fixed rfl ih.canonical
  | poked s a v _ ih => exact ih.of_fixed rfl (memWf_write8 s a v ih.canonical)
  | faulted s t r _ hcall ih =>
    obtain ⟨-, -, hdec, rfl⟩ := executeCall_failed_cases hcall
    obtain ⟨hbytes, -⟩ := (decode_unknown_iff _ _ _).1 hdec
    refine ⟨ih.canonical, ih.ir, ih.params, fun r' hr' => ?_⟩
    cases hr'
    rw [hbytes]
    exact bytesExamined_length _

end

end Sys2Proof.Machine

open Sys2Proof Sys2Proof.Machine

/-- Settles O9: all these operations are one byte store but `clear()`, which lists no byte. -/
theorem memoryReadsBackWrites : Obligations.MemoryReadsBackWrites :=
  fun s a b v => ⟨read8_write8 s a b v, read8_write8 s a b v, read8_write8 s a b v, rfl, memWf_write8 s a v⟩

/-- Settles O18: Memory begins empty and without a record. -/
theorem constructionMeetsInvariant : Obligations.ConstructionMeetsInvariant :=
  ⟨construct_inv, construct_inv resetParams⟩

/-- Settles O19: every host operation keeps Memory canonical, and only a failing step leaves a record. -/
theorem reachableStatesMeetInvariant : Obligations.ReachableStatesMeetInvariant := by
  intro p s h
  have hs := reachableFacts h
  exact ⟨hs.canonical, hs.ir, hs.params, fun hf => ⟨hs.canonical, hf⟩, hs.record,
    fun t ht => ⟨step_keeps_memWf ht hs.canonical, step_fault_none ht⟩, ⟨hs.canonical, rfl⟩, ⟨rfl, rfl⟩⟩

/-- Settles O57: the latch after `reset()` is the old one where a draw says so. -/
theorem resetAndClear : Obligations.ResetAndClear := by
  refine fun s => ⟨⟨(hostReset s).irqPending, ?_, rfl⟩, rfl, fun _ => rfl, Flags.zero_toByte, rfl⟩
  rw [hostReset_irqPending]
  cases Config.undef1 s.draws
  · exact .inr (Bool.and_false _)
  · exact .inl (Bool.and_true _)

/-- Settles O58: by induction on the bytes, the later ones being stored after the earlier. -/
theorem loadProgramWraps : Obligations.LoadProgramWraps :=
  fun s origin bytes => ⟨fun _ h hlast => read8_loadProgram origin bytes s h hlast,
    fun _ hb => read8_loadProgram_other origin bytes s hb, loadProgram_frame origin bytes s⟩

/-- Settles O59: the slot decides. -/
theorem peripheralRegistration : Obligations.PeripheralRegistration := by
  refine fun s slot d => ⟨fun h he => ⟨_, registerPeripheral_empty h he d, rfl, ?_, fun k hk hne => ?_⟩,
    fun h he => registerPeripheral_taken h he d, fun h => dif_neg (Nat.not_lt.2 h)⟩
  · simp
  · exact Vector.getElem_set_ne h hk hne.symm

/-- Settles O60: the failing call leaves `afterFault` of its state, on which the step sees the record first. -/
theorem faultLeavesStateAlone : Obligations.FaultLeavesStateAlone := by
  intro s t r h
  obtain ⟨-, hpc, -, rfl⟩ := executeCall_failed_cases h
  exact ⟨hpc, rfl, rfl, rfl, rfl, rfl⟩

end

section
/-! PROOFS. Loads, stores, the stack, exchanges, EI, DI, HALT and NOP (41_base_load_exchange_stack.md, 43_base_control_io_system.md section 4,
45_ed_extended.md, 46_ddfd_indexed.md section 3, 47_tier2_base.md section 2, 48_tier2_ed_ddfd.md section 5). -/

namespace Sys2Proof.Machine

/-! ## Forms whose effective address the rules write as XY + d (46_ddfd_indexed.md R281) -/

theorem exec_ldRXYd (x : Index) (r : Reg8) (d : Byte) (s : State) :
    exec (.ldRXYd x r d) s = .next (setReg8 r (read8 s (moved (index s x) d)) s) := by
  rw [← effAddr_eq]; rfl

theorem exec_ldXYdR (x : Index) (d : Byte) (r : Reg8) (s : State) :
    exec (.ldXYdR x d r) s = .next (write8 (moved (index s x) d) (reg8 s r) s) := by
  rw [← effAddr_eq]; rfl

theorem exec_ldXYdN (x : Index) (d n : Byte) (s : State) : exec (.ldXYdN x d n) s = .next (write8 (moved (index s x) d) n s) := by
  rw [← effAddr_eq]; rfl

/-! ## Loads from a word of Memory (20_memory.md R52) -/

theorem exec_ldDdMem (p : Pair) (nn : Word) (s : State) : exec (.ldDdMem p nn) s = .next (setPair p (wordAt s nn) s) := by
  rw [← read16_eq]; rfl

theorem exec_ldHLMem (nn : Word) (s : State) : exec (.ldHLMem nn) s = .next (setPair .hl (wordAt s nn) s) := by
  rw [← read16_eq]; rfl

theorem exec_ldXYMem (x : Index) (nn : Word) (s : State) : exec (.ldXYMem x nn) s = .next (setIndex x (wordAt s nn) s) := by
  rw [← read16_eq]; rfl

/-! ## The stack -/

theorem exec_pop (q : StackPair) (s : State) : exec (.pop q) s = .next (setStackPair q (wordAt s s.sp) (dropTop s)) := by
  rw [← popped_eq]; rfl

theorem exec_popXY (x : Index) (s : State) : exec (.popXY x) s = .next (setIndex x (wordAt s s.sp) (dropTop s)) := by
  rw [← popped_eq]; rfl

@[simp] theorem stackPair_dropTop (q : StackPair) (s : State) : stackPair (dropTop s) q = stackPair s q := by cases q <;> rfl

@[simp] theorem index_dropTop (x : Index) (s : State) : index (dropTop s) x = index s x := by cases x <;> rfl

@[simp] theorem index_exchangeTop (x : Index) (v : Word) (s : State) : index (exchangeTop v s) x = index s x := by cases x <;> rfl

theorem exec_exSPXY (x : Index) (s : State) :
    exec (.exSPXY x) s = .next (setIndex x (wordAt s s.sp) (exchangeTop (index s x) s)) := by
  rw [← popped_eq]; rfl

end Sys2Proof.Machine

open Sys2Proof Sys2Proof.Machine

/-- Settles O27: every form puts its value into the register and does no more. -/
theorem registerLoads : Obligations.RegisterLoads :=
  fun s r => ⟨fun _ => loadsReg_intro rfl, loadsReg_intro rfl, fun _ => loadsReg_intro rfl,
    fun x d => loadsReg_intro (exec_ldRXYd x r d s), loadsReg_intro rfl, loadsReg_intro rfl, fun _ => loadsReg_intro rfl⟩

/-- Settles O28: every form is one byte store or one word store. -/
theorem stores : Obligations.Stores :=
  fun s _ => ⟨fun _ => storesByte_intro rfl, fun _ => storesByte_intro rfl, fun x d r => storesByte_intro (exec_ldXYdR x d r s),
    fun x d n => storesByte_intro (exec_ldXYdN x d n s), storesByte_intro rfl, storesByte_intro rfl, storesByte_intro rfl,
    fun _ => storesWord_intro rfl, storesWord_intro rfl, fun _ => storesWord_intro rfl⟩

/-- Settles O29: every form puts its word into the pair or the index register and does no more. -/
theorem pairLoads : Obligations.PairLoads :=
  fun s nn => ⟨fun p => ⟨loadsPair_intro rfl, loadsPair_intro (exec_ldDdMem p nn s)⟩, loadsPair_intro rfl,
    loadsPair_intro (exec_ldHLMem nn s), fun x => ⟨loadsIndex_intro rfl, loadsIndex_intro (exec_ldXYMem x nn s), loadsPair_intro rfl⟩⟩

/-- Settles O30: PUSH is one push; POP writes the popped word to its register and moves SP, and F comes back from its byte bit by bit. -/
theorem stackTransfers : Obligations.StackTransfers := by
  intro s
  refine ⟨fun q => ⟨_, rfl, wordStored_push16 _ s, push16_eq _ s⟩, fun x => ⟨_, rfl, wordStored_push16 _ s, push16_eq _ s⟩,
    join_eq _ _, fun q => ⟨_, exec_pop q s, stackPair_setStackPair_same q _ _, fun r hr => ?_, setStackPair_eq q _ _⟩,
    ⟨_, rfl, ?_, ?_⟩, fun x => ⟨_, exec_popXY x s, index_setIndex_same x _ _, fun y hy => ?_, setIndex_eq x _ _⟩⟩
  · rw [stackPair_setStackPair_other hr, stackPair_dropTop]
  · exact hi8_join _ _
  · exact (Flags.toByte_ofByte _).trans (lo8_join _ _)
  · rw [index_setIndex_other hy, index_dropTop]

/-- Settles O31: the register exchanges undo themselves; an exchange with the top of the stack is a word store and a load of the old word. -/
theorem exchanges : Obligations.Exchanges := by
  intro s
  refine ⟨⟨_, rfl, rfl, rfl⟩, ⟨_, rfl, rfl, rfl, rfl, rfl⟩, ⟨_, rfl, rfl, rfl⟩, ⟨_, rfl, wordStored_write16 s s.sp s.hl, ?_⟩,
    fun x => ⟨_, exec_exSPXY x s, ?_, index_setIndex_same x _ _, fun y hy => ?_, ?_⟩⟩
  · rw [popped_eq]; rfl
  · cases x <;> exact wordStored_write16 s s.sp _
  · rw [index_setIndex_other hy, index_exchangeTop]
  · cases x <;> rfl

/-- Settles O52: each sets one field, NOP none. -/
theorem interruptEnableHaltAndNop : Obligations.InterruptEnableHaltAndNop :=
  fun _ => ⟨⟨_, rfl, rfl⟩, ⟨_, rfl, rfl⟩, ⟨_, rfl, rfl⟩, rfl⟩

end

section
/-! PROOFS. 8-bit and 16-bit arithmetic and logic (42_base_arith_logic.md, 45_ed_extended.md, 47_tier2_base.md section 5,
48_tier2_ed_ddfd.md section 1), with the flags in exact arithmetic. -/

namespace Sys2Proof.Machine

/-! ## The accumulator operations on the four operand forms (R211) -/

/-- A statement about an operand and its value, form by form, the indexed one at its effective address. -/
theorem forall_operand {P : Operand8 → Byte → Prop} {s : State} (hreg : ∀ r, P (.reg r) (reg8 s r)) (hhl : P .atHL (read8 s s.hl))
    (himm : ∀ n, P (.imm n) n) (hxy : ∀ x d, P (.atXY x d) (read8 s (effAddr s x d))) (x : Operand8) : P x (x.value s) := by
  cases x with
  | reg r => exact hreg r
  | atHL => exact hhl
  | imm n => exact himm n
  | atXY x d =>
    rw [Operand8.value, ← effAddr_eq]
    exact hxy x d

section
variable (x : Operand8) (s : State)

theorem exec_addForm : exec (addForm x) s = .next (accAdd (x.value s) s) :=
  forall_operand (P := fun x v => exec (addForm x) s = .next (accAdd v s)) (fun _ => rfl) rfl (fun _ => rfl) (fun _ _ => rfl) x

theorem exec_adcForm : exec (adcForm x) s = .next (accAdc (x.value s) s) :=
  forall_operand (P := fun x v => exec (adcForm x) s = .next (accAdc v s)) (fun _ => rfl) rfl (fun _ => rfl) (fun _ _ => rfl) x

theorem exec_subForm : exec (subForm x) s = .next (accSub (x.value s) s) :=
  forall_operand (P := fun x v => exec (subForm x) s = .next (accSub v s)) (fun _ => rfl) rfl (fun _ => rfl) (fun _ _ => rfl) x

theorem exec_sbcForm : exec (sbcForm x) s = .next (accSbc (x.value s) s) :=
  forall_operand (P := fun x v => exec (sbcForm x) s = .next (accSbc v s)) (fun _ => rfl) rfl (fun _ => rfl) (fun _ _ => rfl) x

theorem exec_cpForm : exec (cpForm x) s = .next (accCp (x.value s) s) :=
  forall_operand (P := fun x v => exec (cpForm x) s = .next (accCp v s)) (fun _ => rfl) rfl (fun _ => rfl) (fun _ _ => rfl) x

theorem exec_andForm : exec (andForm x) s = .next (accAnd (x.value s) s) :=
  forall_operand (P := fun x v => exec (andForm x) s = .next (accAnd v s)) (fun _ => rfl) rfl (fun _ => rfl) (fun _ _ => rfl) x

theorem exec_xorForm : exec (xorForm x) s = .next (accXor (x.value s) s) :=
  forall_operand (P := fun x v => exec (xorForm x) s = .next (accXor v s)) (fun _ => rfl) rfl (fun _ => rfl) (fun _ _ => rfl) x

theorem exec_orForm : exec (orForm x) s = .next (accOr (x.value s) s) :=
  forall_operand (P := fun x v => exec (orForm x) s = .next (accOr v s)) (fun _ => rfl) rfl (fun _ => rfl) (fun _ _ => rfl) x

end

section
variable {i : Instr} {s : State} {r : Byte} {fl : AluFlags}

/-- An instruction that ends with A and F written as given. -/
theorem setsAcc_of_eq {res : Byte × AluFlags} (h : exec i s = .next (setAcc res s)) (hres : res = (r, fl)) : SetsAcc i s r fl := by
  subst hres
  exact setsAcc_intro h

/-- An instruction that writes F alone. -/
theorem setsAcc_of_writeF (h : exec i s = .next (writeF fl s)) : SetsAcc i s s.a fl :=
  setsAcc_intro (r := (s.a, fl)) h

end

/-! ## Logic -/

section
variable (a b : Byte)

theorem and_eq_ofNat_land : a &&& b = BitVec.ofNat 8 (Nat.land a.toNat b.toNat) := by
  apply BitVec.eq_of_toNat_eq
  rw [BitVec.toNat_ofNat]
  exact (Nat.mod_eq_of_lt (a &&& b).isLt).symm

theorem xor_eq_ofNat_xor : a ^^^ b = BitVec.ofNat 8 (Nat.xor a.toNat b.toNat) := by
  apply BitVec.eq_of_toNat_eq
  rw [BitVec.toNat_ofNat]
  exact (Nat.mod_eq_of_lt (a ^^^ b).isLt).symm

theorem or_eq_ofNat_lor : a ||| b = BitVec.ofNat 8 (Nat.lor a.toNat b.toNat) := by
  apply BitVec.eq_of_toNat_eq
  rw [BitVec.toNat_ofNat]
  exact (Nat.mod_eq_of_lt (a ||| b).isLt).symm

theorem not_eq_ofNat : ~~~a = BitVec.ofNat 8 (255 - a.toNat) := by
  apply BitVec.eq_of_toNat_eq
  rw [BitVec.toNat_not, BitVec.toNat_ofNat]
  omega

end

/-! ## Words one up and one down -/

/-- A word moved by an integer, mod 65536. -/
theorem add_ofInt (w : Word) (k : Int) : w + BitVec.ofInt 16 k = BitVec.ofInt 16 (w.toNat + k) := by
  rw [BitVec.ofInt_add, BitVec.ofInt_natCast, BitVec.ofNat_toNat, BitVec.setWidth_eq]

theorem add_one_eq_ofNat (w : Word) : w + 1 = BitVec.ofNat 16 (w.toNat + 1) := by
  rw [BitVec.ofNat_add, BitVec.ofNat_toNat, BitVec.setWidth_eq]
  rfl

theorem sub_one_eq_ofInt (w : Word) : w - 1 = BitVec.ofInt 16 (w.toNat - 1) := by
  rw [Int.sub_eq_add_neg, ← add_ofInt, BitVec.sub_eq_add_neg]
  rfl

/-! ## 16-bit addition and subtraction -/

@[simp] theorem index_writeF (x : Index) (fl : AluFlags) (s : State) : index (writeF fl s) x = index s x := by cases x <;> rfl

theorem addHL16_eq (old : Flags) (a b : Word) :
    addHL16 old a b = (sumResult a b false,
      { old.six with h := (sumFlags 12 a b false).h, n := false, c := (sumFlags 12 a b false).c }) := by
  rw [addHL16, add16_eq]

end Sys2Proof.Machine

open Sys2Proof Sys2Proof.Machine

/-- Settles O32: every form is `add8` on its operand. -/
theorem accumulatorAdditions : Obligations.AccumulatorAdditions :=
  fun s x => ⟨setsAcc_of_eq (exec_addForm x s) (add8_eq _ _ _), setsAcc_of_eq (exec_adcForm x s) (add8_eq _ _ _)⟩

/-- Settles O33: every form is `sub8` on its operand; CP writes its flags alone. -/
theorem accumulatorSubtractions : Obligations.AccumulatorSubtractions := by
  refine fun s x => ⟨setsAcc_of_eq (exec_subForm x s) (sub8_eq _ _ _ _), setsAcc_of_eq (exec_sbcForm x s) (sub8_eq _ _ _ _),
    setsAcc_of_writeF ?_⟩
  rw [exec_cpForm, accCp, sub8_eq]

/-- Settles O34: NEG is `sub8` of A from 0, and each of the 256 values of A is tried. -/
theorem negate : Obligations.Negate := by
  refine fun s => setsAcc_of_eq (res := sub8 s.params.subHalf 0 s.a false) rfl ?_
  generalize s.a = a
  cases s.params.subHalf <;> revert a <;> decide

/-- Settles O35: every form is its bitwise operation on its operand, with the flags of `logic8`. -/
theorem accumulatorLogic : Obligations.AccumulatorLogic := by
  refine fun s x => ⟨setsAcc_of_eq (exec_andForm x s) ?_, setsAcc_of_eq (exec_xorForm x s) ?_, setsAcc_of_eq (exec_orForm x s) ?_⟩
  · rw [logic8_eq, ← and_eq_ofNat_land]
  · rw [logic8_eq, ← xor_eq_ofNat_xor]
  · rw [logic8_eq, ← or_eq_ofNat_lor]

/-- Settles O37: the word one up or one down in exact arithmetic. -/
theorem pairIncrementsAndDecrements : Obligations.PairIncrementsAndDecrements := by
  intro s
  simp only [← add_one_eq_ofNat, ← sub_one_eq_ofInt]
  exact ⟨fun p => ⟨loadsPair_intro rfl, loadsPair_intro rfl⟩, fun x => ⟨loadsIndex_intro rfl, loadsIndex_intro rfl⟩⟩

/-- Settles O38: both forms are `addHL16` on their operands. -/
theorem plainWordAdditions : Obligations.PlainWordAdditions := by
  refine fun s => ⟨fun p => ⟨_, rfl, ?_, ?_⟩, fun x p => ⟨_, rfl, ?_, fun y hy => ?_, ?_, ?_⟩⟩
  · rw [addHL16_eq]; rfl
  · rw [addHL16_eq]; rfl
  · rw [index_writeF, index_setIndex_same, addHL16_eq]
  · rw [index_writeF, index_setIndex_other hy]
  · cases x <;> rfl
  · rw [addHL16_eq]; rfl

/-- Settles O39: both forms are `add16` or `sub16` on their operands. -/
theorem wordArithmeticWithCarry : Obligations.WordArithmeticWithCarry := by
  refine fun s p => ⟨⟨_, rfl, ?_, ?_⟩, ⟨_, rfl, ?_, ?_⟩⟩
  · rw [add16_eq]; rfl
  · rw [add16_eq]; rfl
  · rw [sub16_eq]; rfl
  · rw [sub16_eq]; rfl

/-- Settles O42: each writes the flags named, CPL the complement of A too. -/
theorem flagAdjustments : Obligations.FlagAdjustments := by
  intro s
  rw [← not_eq_ofNat]
  exact ⟨setsAcc_of_eq (res := (~~~s.a, _)) rfl rfl, setsAcc_of_writeF rfl, setsAcc_of_writeF rfl⟩

end

section
/-! PROOFS. Decimal adjust (47_tier2_base.md section 5), rotates and shifts in Memory and on A, bit tests and writes, RRD and RLD
(44_cb_rotate_bit.md, 46_ddfd_indexed.md section 5, 47_tier2_base.md section 3, 48_tier2_ed_ddfd.md section 1). -/

namespace Sys2Proof.Machine

/-! ## Flags of a result -/

theorem resultFlags_eq (r : Byte) (h c : Bool) : resultFlags r h c = { logic8 r h with c := c } := by
  rw [logic8_eq]; rfl

theorem parityFlags_eq (v : Byte) (c : Bool) : parityFlags v c = resultFlags v false c := (resultFlags_eq v false c).symm

/-! ## Decimal adjust (R325) -/

/-- The correction of the low digit. -/
def daaLow (f : Flags) (a : Byte) : Nat := if f.h = true ∨ 9 < a.toNat % 16 then 6 else 0

/-- The correction of the high digit. -/
def daaHigh (f : Flags) (a : Byte) : Nat := if f.c = true ∨ 0x99 < a.toNat then 0x60 else 0

/-- The two digits' corrections share no bit, so their `or` is their sum. -/
theorem daaCorrection_eq (f : Flags) (a : Byte) : daaCorrection f a = BitVec.ofNat 8 (daaLow f a + daaHigh f a) := by
  simp only [daaCorrection, daaLow, daaHigh, Bool.or_eq_true, decide_eq_true_eq]
  split <;> split <;> rfl

theorem sub_ofNat_eq_ofInt (a : Byte) (k : Nat) : a - BitVec.ofNat 8 k = BitVec.ofInt 8 ((a.toNat : Int) - k) := by
  apply BitVec.eq_of_toNat_eq
  have := a.isLt
  rw [BitVec.toNat_sub, BitVec.toNat_ofNat, BitVec.toNat_ofInt]
  omega

theorem daaResult_eq (f : Flags) (a : Byte) :
    daaResult f a = if f.n = true then BitVec.ofInt 8 ((a.toNat : Int) - daaLow f a - daaHigh f a)
      else BitVec.ofNat 8 (a.toNat + daaLow f a + daaHigh f a) := by
  rw [daaResult, daaCorrection_eq, sub_ofNat_eq_ofInt, Int.sub_sub, Nat.add_assoc, BitVec.ofNat_add a.toNat, BitVec.ofNat_toNat,
    BitVec.setWidth_eq]
  rfl

/-- The packed decimal form of a number below 100. -/
def packed (x : Nat) : Nat := 16 * (x / 10) + x % 10

theorem packed_of_digits {n p q : Nat} (h : n = 10 * p + q) (hq : q < 10) : packed n = 16 * p + q := by
  rw [packed]; omega

/-- The sum of two packed numbers is corrected by 6 when its low digit carries or passes 9, and by 0x60 when the number passes 99. -/
theorem packed_add {x y low high : Nat} (hx : x < 100) (hy : y < 100) (hlow : low = if 10 ≤ x % 10 + y % 10 then 6 else 0)
    (hhigh : high = if 100 ≤ x + y then 0x60 else 0) : (packed x + packed y + low + high) % 256 = packed ((x + y) % 100) := by
  have hpx : packed x = 16 * (x / 10) + x % 10 := rfl
  have hpy : packed y = 16 * (y / 10) + y % 10 := rfl
  by_cases hcarry : 10 ≤ x % 10 + y % 10 <;> by_cases hsum : 100 ≤ x + y <;> simp only [hcarry, hsum, if_true, if_false] at hlow hhigh
  · rw [packed_of_digits (n := (x + y) % 100) (p := x / 10 + y / 10 - 9) (q := x % 10 + y % 10 - 10) (by omega) (by omega)]; omega
  · rw [packed_of_digits (n := (x + y) % 100) (p := x / 10 + y / 10 + 1) (q := x % 10 + y % 10 - 10) (by omega) (by omega)]; omega
  · rw [packed_of_digits (n := (x + y) % 100) (p := x / 10 + y / 10 - 10) (q := x % 10 + y % 10) (by omega) (by omega)]; omega
  · rw [packed_of_digits (n := (x + y) % 100) (p := x / 10 + y / 10) (q := x % 10 + y % 10) (by omega) (by omega)]; omega

/-- What ADD leaves of two packed numbers, as far as DAA looks at it. -/
structure PackedSum (x y : Nat) (f : Flags) (a : Byte) : Prop where
  sum : a.toNat = (packed x + packed y) % 256
  half : f.h = decide (16 ≤ packed x % 16 + packed y % 16)
  carry : f.c = decide (256 ≤ packed x + packed y)
  added : f.n = false

section
variable {x y : Nat} {f : Flags} {a : Byte}

theorem PackedSum.low_exceeds (h : PackedSum x y f a) : f.h = true ∨ 9 < a.toNat % 16 ↔ 10 ≤ x % 10 + y % 10 := by
  rw [h.sum, h.half, decide_eq_true_eq, packed, packed]
  omega

theorem PackedSum.exceeds (h : PackedSum x y f a) (hx : x < 100) (hy : y < 100) : f.c = true ∨ 0x99 < a.toNat ↔ 100 ≤ x + y := by
  have hsum : 154 ≤ packed x + packed y ↔ 100 ≤ x + y := by rw [packed, packed]; omega
  have hbound : packed x + packed y < 512 := by rw [packed, packed]; omega
  rw [h.sum, h.carry, decide_eq_true_eq, ← hsum]
  omega

theorem PackedSum.low (h : PackedSum x y f a) : daaLow f a = if 10 ≤ x % 10 + y % 10 then 6 else 0 := by
  simp only [daaLow, h.low_exceeds]

theorem PackedSum.high (h : PackedSum x y f a) (hx : x < 100) (hy : y < 100) : daaHigh f a = if 100 ≤ x + y then 0x60 else 0 := by
  simp only [daaHigh, h.exceeds hx hy]

theorem PackedSum.result (h : PackedSum x y f a) (hx : x < 100) (hy : y < 100) :
    daaResult f a = BitVec.ofNat 8 (packed ((x + y) % 100)) := by
  rw [daaResult_eq, h.added, if_neg Bool.false_ne_true, ← packed_add hx hy (h.low) (h.high hx hy), h.sum]
  apply BitVec.eq_of_toNat_eq
  rw [BitVec.toNat_ofNat, BitVec.toNat_ofNat]
  omega

theorem PackedSum.carryOut (h : PackedSum x y f a) (hx : x < 100) (hy : y < 100) : daaCarry f a = decide (100 ≤ x + y) := by
  rw [daaCarry, Bool.eq_iff_iff, Bool.or_eq_true, decide_eq_true_eq, decide_eq_true_eq, h.exceeds hx hy]

end

theorem toNat_ofNat_packed {x : Nat} (hx : x < 100) : (BitVec.ofNat 8 (packed x)).toNat = packed x := by
  rw [BitVec.toNat_ofNat, packed]
  omega

/-- ADD of packed numbers leaves their packed sum. -/
theorem packedSum_of_add {x y : Nat} (hx : x < 100) (hy : y < 100) {b a : Byte} {f : Flags} (hb : b = BitVec.ofNat 8 (packed x))
    (hsix : f.six = sumFlags 4 b (BitVec.ofNat 8 (packed y)) false) (ha : a = sumResult b (BitVec.ofNat 8 (packed y)) false) :
    PackedSum x y f a := by
  subst hb
  have hh := congrArg AluFlags.h hsix
  have hc := congrArg AluFlags.c hsix
  have hn := congrArg AluFlags.n hsix
  simp only [sumFlags, toNat_ofNat_packed hx, toNat_ofNat_packed hy, Bool.toNat_false, Nat.add_zero] at hh hc hn
  refine ⟨?_, hh, hc, hn⟩
  rw [ha, sumResult, toNat_ofNat_packed hx, toNat_ofNat_packed hy, BitVec.toNat_ofNat]
  rfl

/-! ## Rotates and shifts of a byte in Memory and of A -/

section
variable (op : ShiftOp) (s : State)

theorem exec_onHL : exec op.onHL s = .next (rotMem (op.apply · s.f.c) s.hl s) := by
  cases op <;> rfl

theorem exec_onXY (x : Index) (d : Byte) : exec (op.onXY x d) s = .next (rotMem (op.apply · s.f.c) (moved (index s x) d) s) := by
  rw [← effAddr_eq]
  cases op <;> rfl

theorem rotMem_apply (a : Word) :
    rotMem (op.apply · s.f.c) a s =
      writeF (resultFlags (op.result (read8 s a) s.f.c) false (op.ejected (read8 s a))) (write8 a (op.result (read8 s a) s.f.c) s) := by
  rw [rotMem, rotFlags_eq, ShiftOp.apply_eq]

theorem rotAcc_apply :
    rotAcc (op.apply · s.f.c) s = setAcc (op.result s.a s.f.c, { s.f.six with h := false, n := false, c := op.ejected s.a }) s := by
  rw [rotAcc, ShiftOp.apply_eq]
  rfl

end

/-! ## Bits (40_alu_flags.md R138, R142) -/

/-- The Z of BIT in exact arithmetic. -/
theorem testBit_eq (old : Flags) (v : Byte) (b : BitVec 3) :
    testBit old v b = { old.six with z := decide (v.toNat / 2 ^ b.toNat % 2 = 0), h := true, n := false } := by
  have hz : (!v.getLsbD b.toNat) = decide (v.toNat / 2 ^ b.toNat % 2 = 0) := by
    rw [BitVec.getLsbD, Nat.testBit_eq_decide_div_mod_eq, ← decide_not, decide_eq_decide]
    omega
  rw [testBit, hz]

theorem getLsbD_oneBit (b : BitVec 3) {k : Nat} (hk : k < 8) : (1#8 <<< b.toNat).getLsbD k = decide (k = b.toNat) := by
  rw [Bool.eq_iff_iff]
  simp [hk]
  omega

theorem getLsbD_resBit (v : Byte) (b : BitVec 3) {k : Nat} (hk : k < 8) :
    (resBit v b).getLsbD k = (decide (k ≠ b.toNat) && v.getLsbD k) := by
  rw [resBit, BitVec.getLsbD_and, BitVec.getLsbD_not, getLsbD_oneBit b hk, decide_eq_true hk, Bool.true_and, Bool.and_comm, decide_not]

theorem getLsbD_setBit (v : Byte) (b : BitVec 3) {k : Nat} (hk : k < 8) :
    (setBit v b).getLsbD k = (decide (k = b.toNat) || v.getLsbD k) := by
  rw [setBit, BitVec.getLsbD_or, getLsbD_oneBit b hk, Bool.or_comm]

theorem exec_resXYd (x : Index) (b : BitVec 3) (d : Byte) (s : State) :
    exec (.resXYd x b d) s = .next (write8 (moved (index s x) d) (resBit (read8 s (moved (index s x) d)) b) s) := by
  rw [← effAddr_eq]; rfl

theorem exec_setXYd (x : Index) (b : BitVec 3) (d : Byte) (s : State) :
    exec (.setXYd x b d) s = .next (write8 (moved (index s x) d) (setBit (read8 s (moved (index s x) d)) b) s) := by
  rw [← effAddr_eq]; rfl

/-! ## Nibbles (48_tier2_ed_ddfd.md R341, R342) -/

theorem toNat_loNib (v : Byte) : (loNib v).toNat = v.toNat % 16 := by simp [loNib]

theorem toNat_hiNib (v : Byte) : (hiNib v).toNat = v.toNat / 16 := by
  have := v.isLt
  simp [hiNib, Nat.shiftRight_eq_div_pow]; omega

theorem toNat_nibbles (h l : BitVec 4) : (h ++ l : Byte).toNat = h.toNat * 16 + l.toNat := by
  rw [BitVec.toNat_append, Nat.shiftLeft_eq, Nat.mul_comm, ← Nat.two_pow_add_eq_or_of_lt l.isLt, Nat.mul_comm]

end Sys2Proof.Machine

open Sys2Proof Sys2Proof.Machine

/-- Settles O40: A takes the corrected value, whose two digits are corrected apart. -/
theorem decimalAdjust : Obligations.DecimalAdjust := by
  refine fun s => ⟨_, rfl, rfl, ⟨daaLow s.f s.a, daaHigh s.f s.a, rfl, rfl, daaResult_eq s.f s.a⟩, ?_⟩
  rw [resultFlags_eq]
  rfl

/-- Settles O41: ADD leaves in F the carries out of the two digits, which DAA turns into the decimal ones. -/
theorem decimalAddition : Obligations.DecimalAddition := by
  intro s x y hx hy ha
  obtain ⟨t, ht, hsix, hframe⟩ := setsAcc_of_eq (exec_addForm (.imm (BitVec.ofNat 8 (packed y))) s) (add8_eq _ _ false)
  have hsum := packedSum_of_add hx hy ha hsix (congrArg State.a hframe)
  refine ⟨t, _, ht, rfl, ?_, hsum.carryOut hx hy⟩
  have hmod : (x + y) % 100 % 10 = (x + y) % 10 := by omega
  rw [← hmod]
  exact hsum.result hx hy

/-- Settles O44: the cell takes the result and F the flags that the exact arithmetic gives. -/
theorem memoryShifts : Obligations.MemoryShifts := by
  refine fun s op => ⟨setsByte_intro ?_, fun x d => ⟨_, _, rfl, rfl, setsByte_intro ?_⟩⟩
  · rw [exec_onHL, rotMem_apply]
  · rw [exec_onXY, rotMem_apply]

/-- Settles O45: each is its CB operation on A with the flags that the rotates of A write. -/
theorem accumulatorRotates : Obligations.AccumulatorRotates := by
  intro s i op h
  have hexec : exec i s = .next (rotAcc (op.apply · s.f.c) s) := by
    simp only [List.mem_cons, Prod.mk.injEq, List.not_mem_nil, or_false] at h
    rcases h with ⟨rfl, rfl⟩ | ⟨rfl, rfl⟩ | ⟨rfl, rfl⟩ | ⟨rfl, rfl⟩ <;> rfl
  rw [rotAcc_apply] at hexec
  exact setsAcc_of_eq hexec rfl

/-- Settles O46: every form is `testBit` on its operand. -/
theorem bitTests : Obligations.BitTests := by
  intro s b
  simp only [← testBit_eq, ← effAddr_eq]
  exact ⟨fun _ => setsAcc_of_writeF rfl, setsAcc_of_writeF rfl, fun _ _ => setsAcc_of_writeF rfl⟩

/-- Settles O47: every form puts `resBit` or `setBit` of its operand back into the operand's place. -/
theorem bitWrites : Obligations.BitWrites := by
  refine fun s b v => ⟨resBit v b, setBit v b, fun k hk => ⟨getLsbD_resBit v b hk, getLsbD_setBit v b hk⟩, ?_, ?_, ?_⟩
  · rintro r rfl
    exact ⟨loadsReg_intro rfl, loadsReg_intro rfl⟩
  · rintro rfl
    exact ⟨storesByte_intro rfl, storesByte_intro rfl⟩
  · rintro x d rfl
    exact ⟨storesByte_intro (exec_resXYd x b d s), storesByte_intro (exec_setXYd x b d s)⟩

/-- Settles O48: each digit is read off the two bytes it is built into. -/
theorem nibbleRotates : Obligations.NibbleRotates := by
  intro s
  simp only [← toNat_loNib, ← toNat_hiNib, ← toNat_nibbles, BitVec.ofNat_toNat, BitVec.setWidth_eq, ← parityFlags_eq]
  exact ⟨_, rfl, ⟨_, rfl, rfl, rfl, byteStored_write8 s s.hl _, rfl⟩, ⟨_, rfl, rfl, rfl, byteStored_write8 s s.hl _, rfl⟩⟩

end

section
/-! PROOFS. Jumps, calls and returns, ports (43_base_control_io_system.md sections 1 to 3, 45_ed_extended.md) and the block instructions
(48_tier2_ed_ddfd.md sections 2 to 4). -/

namespace Sys2Proof.Machine

/-! ## Counting down by one -/

theorem byte_sub_one_eq_ofInt (v : Byte) : v - 1 = BitVec.ofInt 8 (v.toNat - 1) := sub_ofNat_eq_ofInt v 1

/-- B counts down to 0 from 1. -/
theorem byte_sub_one_eq_zero_iff (v : Byte) : v - 1 = 0 ↔ v.toNat = 1 := sub_eq_zero.trans BitVec.toNat_eq

/-- BC counts down to 0 from 1. -/
theorem word_sub_one_eq_zero_iff (v : Word) : v - 1 = 0 ↔ v.toNat = 1 := sub_eq_zero.trans BitVec.toNat_eq

theorem byte_sub_one_beq_zero (v : Byte) : (v - 1 == 0) = decide (v.toNat = 1) :=
  Bool.eq_iff_iff.mpr (beq_iff_eq.trans ((byte_sub_one_eq_zero_iff v).trans decide_eq_true_iff.symm))

theorem byte_sub_one_bne_zero_iff (v : Byte) : (v - 1 != 0) = true ↔ v.toNat ≠ 1 :=
  bne_iff_ne.trans (byte_sub_one_eq_zero_iff v).not

theorem word_sub_one_bne_zero_iff (v : Word) : (v - 1 != 0) = true ↔ v.toNat ≠ 1 :=
  bne_iff_ne.trans (word_sub_one_eq_zero_iff v).not

theorem word_sub_one_bne_zero (v : Word) : (v - 1 != 0) = decide (v.toNat ≠ 1) :=
  Bool.eq_iff_iff.mpr ((word_sub_one_bne_zero_iff v).trans decide_eq_true_iff.symm)

/-! ## Jumps -/

theorem jumpRel_eq (e : Byte) (s : State) : jumpRel e s = { s with pc := moved s.pc e } := by
  rw [jumpRel, add_sext16_eq]

section
variable (s : State)

theorem jumpsTo_jpCcNN (cc : Cond) (nn : Word) : JumpsTo (.jpCcNN cc nn) s (if condHolds s.f cc = true then nn else s.pc) := by
  rw [JumpsTo, exec, execJpCcNN]
  split <;> rfl

theorem jumpsTo_jrCcE (cc : RelCond) (e : Byte) : JumpsTo (.jrCcE cc e) s (if relCondHolds s.f cc = true then moved s.pc e else s.pc) := by
  rw [JumpsTo, exec, execJrCcE, jumpRel_eq]
  split <;> rfl

/-- DJNZ counts B down and jumps unless B became 0 (R324). -/
theorem exec_djnz (e : Byte) :
    exec (.djnz e) s = .next { setReg8 .b (reg8 s .b - 1) s with
      pc := if (reg8 s .b).toNat = 1 then s.pc else moved s.pc e } := by
  rw [exec, execDjnz, jumpRel_eq]
  simp only [byte_sub_one_eq_zero_iff, setReg8_pc]
  split
  · rw [← setReg8_pc .b (reg8 s .b - 1) s]
  · rfl

/-! ## Calls and returns -/

theorem pushesAndJumps_of_call {i : Instr} {target : Word} (h : exec i s = .next (call target s)) : PushesAndJumps i s s.pc target := by
  refine ⟨_, h, wordStored_push16 s.pc s, ?_⟩
  rw [← push16_sp s.pc s]
  rfl

variable {cc : Cond}

theorem exec_callCcNN_of_true (nn : Word) (h : condHolds s.f cc = true) : exec (.callCcNN cc nn) s = .next (call nn s) := by
  rw [exec, execCallCcNN, if_pos h]

theorem exec_callCcNN_of_false (nn : Word) (h : condHolds s.f cc = false) : exec (.callCcNN cc nn) s = .next s := by
  rw [exec, execCallCcNN, h]
  rfl

theorem exec_retCc_of_true (h : condHolds s.f cc = true) : exec (.retCc cc) s = exec .ret s := by
  show Host.Outcome.next (if condHolds s.f cc = true then returnTo s else s) = _
  rw [if_pos h]
  rfl

theorem exec_retCc_of_false (h : condHolds s.f cc = false) : exec (.retCc cc) s = .next s := by
  show Host.Outcome.next (if condHolds s.f cc = true then returnTo s else s) = _
  rw [h]
  rfl

end

/-! ## Ports -/

/-- An input touches the device table and the latch alone (R58, R60). -/
theorem afterPortIn_shape (port : Byte) (s : State) :
    ∃ slots irq, afterPortIn port s = { s with slots := slots, irqPending := irq } :=
  ⟨_, _, afterPortIn_eq port s⟩

/-- An output touches the device table and the latch alone (R59, R60). -/
theorem portOut_shape (port v : Byte) (s : State) : ∃ slots irq, portOut port v s = { s with slots := slots, irqPending := irq } :=
  ⟨_, _, portOut_eq port v s⟩

theorem inRC_frame (fl : AluFlags) (r : Reg8) (v port : Byte) {s t : State} (ht : t = writeF fl (setReg8 r v (afterPortIn port s))) :
    t = { s with
      a := t.a, bc := t.bc, de := t.de, hl := t.hl, f := t.f, draws := t.draws, slots := t.slots, irqPending := t.irqPending } := by
  obtain ⟨slots, irq, hport⟩ := afterPortIn_shape port s
  rw [ht, hport]
  cases r <;> rfl

@[simp] theorem reg8_writeF (r : Reg8) (fl : AluFlags) (s : State) : reg8 (writeF fl s) r = reg8 s r := by cases r <;> rfl

@[simp] theorem reg8_afterPortIn (r : Reg8) (port : Byte) (s : State) : reg8 (afterPortIn port s) r = reg8 s r := by
  cases r <;> simp [reg8]

/-! ## Block instructions -/

/-- A block instruction, repeating or not, as one iteration with PC set back while there is more to do (D29). -/
theorem repeatIf_and {more : Bool} {p : Prop} [Decidable p] (h : more = true ↔ p) (repeats : Bool) (s : State) :
    repeatIf (repeats && more) s = { s with pc := if repeats = true ∧ p then s.pc - 2 else s.pc } := by
  rw [repeatIf_eq]
  simp only [Bool.and_eq_true, h]

theorem blockComparison_eq (s : State) :
    blockComparison s = (differenceResult s.a (read8 s s.hl) false, differenceFlags s.params.subHalf 4 s.a (read8 s s.hl) false) :=
  sub8_eq _ _ _ _

theorem differenceResult_bne_zero_iff (a b : Byte) : (differenceResult a b false != 0) = true ↔ a ≠ b := by
  have hsub : differenceResult a b false = a - b := by
    rw [differenceResult, difference, Bool.toNat_false, Int.natCast_zero, sub_zero, ← sub_ofNat_eq_ofInt, BitVec.ofNat_toNat, BitVec.setWidth_eq]
  rw [hsub, bne_iff_ne, sub_ne_zero]

theorem compare_more_iff (s : State) :
    (s.bc - 1 != 0 && (blockComparison s).1 != 0) = true ↔ s.bc.toNat ≠ 1 ∧ s.a ≠ read8 s s.hl := by
  rw [Bool.and_eq_true, word_sub_one_bne_zero_iff, blockComparison_eq, differenceResult_bne_zero_iff]

/-- One iteration of a block port instruction, input or output. -/
def blockPort (input : Bool) (delta : Word) (s : State) : State := if input = true then blockIn delta s else blockOut delta s

/-- The frame of an iteration (R351, R355). -/
theorem blockPort_eq (input : Bool) (delta : Word) (s : State) :
    blockPort input delta s = { s with
      hl := s.hl + delta, bc := (blockPort input delta s).bc, mem := (blockPort input delta s).mem, f := (blockPort input delta s).f
      draws := (blockPort input delta s).draws, slots := (blockPort input delta s).slots
      irqPending := (blockPort input delta s).irqPending } := by
  cases input with
  | true =>
    obtain ⟨slots, irq, hport⟩ := afterPortIn_shape (reg8 s .c) s
    simp only [blockPort, if_true, blockIn, hport]
    rfl
  | false =>
    obtain ⟨slots, irq, hport⟩ := portOut_shape (reg8 (setReg8 .b (reg8 s .b - 1) s) .c) (read8 s s.hl) (setReg8 .b (reg8 s .b - 1) s)
    simp only [blockPort, Bool.false_eq_true, if_false, blockOut, hport]
    rfl

/-- The port access of an iteration and the byte it moves (R351, R355). -/
theorem blockPort_access (input : Bool) (delta : Word) (s : State) :
    if input = true then ∃ v, PortRead s (blockPort input delta s) (reg8 s .c) v ∧ ByteStored s (blockPort input delta s) s.hl v
    else PortWrite s (blockPort input delta s) (reg8 s .c) (read8 s s.hl) ∧ (blockPort input delta s).mem = s.mem := by
  cases input with
  | true =>
    refine ⟨_, portRead_blockIn delta s, ?_⟩
    obtain ⟨slots, irq, hport⟩ := afterPortIn_shape (reg8 s .c) s
    simp only [blockPort, if_true, blockIn, hport]
    exact byteStored_write8 s s.hl _
  | false => exact ⟨portWrite_blockOut delta s, by simp [blockPort]⟩

/-- The counter and the flags an iteration leaves: B counts down and Z says whether it reached 0 (R351, D38). -/
def BlockPortCounts (s t : State) : Prop :=
  reg8 t .b = reg8 s .b - 1 ∧ reg8 t .c = reg8 s .c ∧ t.f.z = (reg8 s .b - 1 == 0) ∧ t.f.n = true ∧ t.f.c = s.f.c

theorem blockPortCounts_blockIoFlags {s u : State} (hb : reg8 u .b = reg8 s .b - 1) (hc : reg8 u .c = reg8 s .c) (hf : u.f = s.f) :
    BlockPortCounts s (blockIoFlags u) := by
  refine ⟨hb, hc, ?_, rfl, ?_⟩
  · rw [← hb]; rfl
  · rw [← hf]; rfl

theorem blockPortCounts_blockPort (input : Bool) (delta : Word) (s : State) : BlockPortCounts s (blockPort input delta s) := by
  cases input with
  | true =>
    obtain ⟨slots, irq, hport⟩ := afterPortIn_shape (reg8 s .c) s
    simp only [blockPort, if_true, blockIn, hport]
    exact blockPortCounts_blockIoFlags (reg8_setReg8_same .b _ _) (reg8_setReg8_other (q := .c) (r := .b) (by decide) _ _) rfl
  | false =>
    obtain ⟨slots, irq, hport⟩ := portOut_shape (reg8 (setReg8 .b (reg8 s .b - 1) s) .c) (read8 s s.hl) (setReg8 .b (reg8 s .b - 1) s)
    simp only [blockPort, Bool.false_eq_true, if_false, blockOut, hport]
    exact blockPortCounts_blockIoFlags (reg8_setReg8_same .b _ s) (reg8_setReg8_other (q := .c) (r := .b) (by decide) _ s) rfl

end Sys2Proof.Machine

open Sys2Proof Sys2Proof.Machine

/-- Settles O49: each form writes PC alone, DJNZ also B. -/
theorem jumps : Obligations.Jumps := by
  intro s nn e
  refine ⟨rfl, congrArg Host.Outcome.next (jumpRel_eq e s), rfl, fun _ => rfl, fun cc holds h => ?_, fun cc holds h => ?_,
    ⟨_, exec_djnz s e, ?_, ?_, rfl⟩⟩
  · have hholds : condHolds s.f cc = holds := by
      simp only [List.mem_cons, Prod.mk.injEq, List.not_mem_nil, or_false] at h
      rcases h with ⟨rfl, rfl⟩ | ⟨rfl, rfl⟩ | ⟨rfl, rfl⟩ | ⟨rfl, rfl⟩ | ⟨rfl, rfl⟩ | ⟨rfl, rfl⟩ | ⟨rfl, rfl⟩ | ⟨rfl, rfl⟩ <;> rfl
    rw [← hholds]
    exact jumpsTo_jpCcNN s cc nn
  · have hholds : relCondHolds s.f cc = holds := by
      simp only [List.mem_cons, Prod.mk.injEq, List.not_mem_nil, or_false] at h
      rcases h with ⟨rfl, rfl⟩ | ⟨rfl, rfl⟩ | ⟨rfl, rfl⟩ | ⟨rfl, rfl⟩ <;> rfl
    rw [← hholds]
    exact jumpsTo_jrCcE s cc e
  · exact (reg8_setReg8_same .b _ s).trans (byte_sub_one_eq_ofInt _)
  · exact reg8_setReg8_other (q := .c) (r := .b) (by decide) _ s

/-- Settles O50: the calls are one push and a jump, the returns one pop into PC. -/
theorem callsAndReturns : Obligations.CallsAndReturns :=
  fun s nn => ⟨pushesAndJumps_of_call s rfl, fun _ => pushesAndJumps_of_call s rfl, exec_ret s, fun _ =>
    ⟨fun h => ⟨pushesAndJumps_of_call s (exec_callCcNN_of_true s nn h), (exec_retCc_of_true s h).trans (exec_ret s)⟩,
      fun h => ⟨exec_callCcNN_of_false s nn h, exec_retCc_of_false s h⟩⟩⟩

/-- Settles O51: RET pops the word CALL pushed, which lies in the two bytes below SP. -/
theorem callThenReturn : Obligations.CallThenReturn := by
  intro s nn
  obtain ⟨-, -, hother⟩ := wordStored_push16 s.pc s
  refine ⟨call nn s, { s with mem := (push16 s.pc s).mem }, rfl, ?_, rfl, fun b h1 h2 => hother b h2 (by bv_omega)⟩
  have hword : wordAt (push16 s.pc s) (push16 s.pc s).sp = s.pc := (popped_eq _).symm.trans (popped_push16 s.pc s)
  have hback : (push16 s.pc s).sp + 2 = s.sp := dropTop_push16_sp s.pc s
  calc exec .ret { call nn s with pc := (call nn s).pc + 1 }
      = .next { push16 s.pc s with pc := wordAt (push16 s.pc s) (push16 s.pc s).sp, sp := (push16 s.pc s).sp + 2 } := exec_ret _
    _ = .next { s with mem := (push16 s.pc s).mem } := by rw [hword, hback]; rfl

/-- Settles O53: every form is one port access and, for the inputs, a register write. -/
theorem portTransfers : Obligations.PortTransfers := by
  refine fun s => ⟨fun n => ⟨_, rfl, portRead_afterPortIn n s, ?_⟩, fun r => ⟨_, rfl, ?_, fun q hq => ?_, ?_, inRC_frame _ r _ _ rfl⟩,
    fun n => ⟨_, rfl, portWrite_portOut n s.a s, portOut_eq n s.a s⟩, fun r => ⟨_, rfl, portWrite_portOut _ _ s, portOut_eq _ _ s⟩⟩
  · exact congrArg (fun u => { u with a := portIn s n }) (afterPortIn_eq n s)
  · rw [reg8_writeF, reg8_setReg8_same]
    exact (portRead_afterPortIn _ s).congr (by simp) (by simp)
  · rw [reg8_writeF, reg8_setReg8_other hq, reg8_afterPortIn]
  · rw [reg8_writeF, reg8_setReg8_same, ← parityFlags_eq]; rfl

/-- Settles O54: one iteration is a byte store with the counters moved. -/
theorem blockMoves : Obligations.BlockMoves := by
  intro s i delta repeats h
  have hexec : exec i s = .next (repeatIf (repeats && (s.bc - 1 != 0)) (blockMove (BitVec.ofInt 16 delta) s)) := by
    simp only [List.mem_cons, Prod.mk.injEq, List.not_mem_nil, or_false] at h
    rcases h with ⟨rfl, rfl, rfl⟩ | ⟨rfl, rfl, rfl⟩ | ⟨rfl, rfl, rfl⟩ | ⟨rfl, rfl, rfl⟩ <;> rfl
  rw [repeatIf_and (word_sub_one_bne_zero_iff s.bc)] at hexec
  rw [← add_ofInt, ← add_ofInt, ← sub_one_eq_ofInt, ← word_sub_one_bne_zero]
  exact ⟨_, hexec, byteStored_write8 s s.de _, rfl, rfl⟩

/-- Settles O55: one iteration is a comparison with the counters moved. -/
theorem blockCompares : Obligations.BlockCompares := by
  intro s i delta repeats h
  have hexec : exec i s = .next (repeatIf (repeats && (s.bc - 1 != 0 && (blockComparison s).1 != 0))
      (blockCompare (BitVec.ofInt 16 delta) s)) := by
    simp only [List.mem_cons, Prod.mk.injEq, List.not_mem_nil, or_false] at h
    rcases h with ⟨rfl, rfl, rfl⟩ | ⟨rfl, rfl, rfl⟩ | ⟨rfl, rfl, rfl⟩ | ⟨rfl, rfl, rfl⟩ <;> rfl
  rw [repeatIf_and (compare_more_iff s)] at hexec
  rw [← add_ofInt, ← sub_one_eq_ofInt]
  refine ⟨_, hexec, rfl, ?_⟩
  rw [← word_sub_one_bne_zero]
  show blockCompareFlags s.f (blockComparison s).2 (s.bc - 1) = _
  rw [blockComparison_eq]
  rfl

/-- Settles O56: one iteration is one port access with the counters moved. -/
theorem blockPortTransfers : Obligations.BlockPortTransfers := by
  intro s i input delta repeats h
  have hexec : exec i s = .next (repeatIf (repeats && (reg8 s .b - 1 != 0)) (blockPort input (BitVec.ofInt 16 delta) s)) := by
    simp only [List.mem_cons, Prod.mk.injEq, List.not_mem_nil, or_false] at h
    rcases h with ⟨rfl, rfl, rfl, rfl⟩ | ⟨rfl, rfl, rfl, rfl⟩ | ⟨rfl, rfl, rfl, rfl⟩ | ⟨rfl, rfl, rfl, rfl⟩ | ⟨rfl, rfl, rfl, rfl⟩ |
      ⟨rfl, rfl, rfl, rfl⟩ | ⟨rfl, rfl, rfl, rfl⟩ | ⟨rfl, rfl, rfl, rfl⟩ <;> rfl
  rw [repeatIf_and (byte_sub_one_bne_zero_iff (reg8 s .b))] at hexec
  rw [← add_ofInt, ← byte_sub_one_eq_ofInt, ← byte_sub_one_beq_zero]
  obtain ⟨hb, hc, hz, hn, hcarry⟩ := blockPortCounts_blockPort input (BitVec.ofInt 16 delta) s
  exact ⟨_, hexec, blockPort_access input _ s, hb, hc,
    congrArg (fun u : State => { u with pc := if repeats = true ∧ (reg8 s .b).toNat ≠ 1 then u.pc - 2 else u.pc }) (blockPort_eq input _ s),
    hz, hn, hcarry⟩

end
